-- ==== Sys2Proof/Word.lean ====
section
/-!
DEFINITION. The word types of the pipeline: the wire's byte, the stored 32-bit word, and the index of a SID cell.
Counts, indexes and lengths that the spec calls integers are `Nat`; only what it calls uN, iN or a byte is a bit vector
(spec/00_scope.md R9).
-/

namespace Sys2Proof

/-- One byte of the wire, of `BUF`, of `RECENT` or of a SID register (R9, R60). -/
abbrev Byte := BitVec 8

/-- A u32 (or, read with `BitVec.toInt`, an i32) (R9). -/
abbrev Word32 := BitVec 32

/-- A SID register address, `0..31` (R65). -/
abbrev SidAddr := BitVec 5

end Sys2Proof
end

