-- ==== Sys2Proof/Syntax.lean ====
section
/-!
DEFINITION. The operations of the pipeline: one constructor of `Instr` per row of spec/opcode_table.json (17 encoded wire
units, 51 port operations; spec/30_encoding.md R86 to R106), the values that are their operands, and `Choice`, what one
turn of a run may be (R106, R360).
-/

namespace Sys2Proof

/-- Which SID cell: `a` is cell 0 (SID A, the left sample), `b` is cell 1 (SID B, the right sample) (R40, R69). -/
inductive CellId where
  | a | b
deriving DecidableEq, Repr, Inhabited

/-- The emulated chip of one cell (R124). -/
inductive ChipModel where
  | mos6581 | mos8580
deriving DecidableEq, Repr, Inhabited

/-- `model_mode`, the three positions of CYCLE_MODE (R32). -/
inductive ModelMode where
  | m6581 | m8580 | split
deriving DecidableEq, Repr, Inhabited

/-- A pending SID event, one 47-bit entry of `RING` (R27). -/
structure Event where
  chipMask : BitVec 2
  addr : SidAddr
  value : Byte
  delta : Word32
deriving DecidableEq, Repr, Inhabited

/-- One stereo PCM frame: two i16 samples, left from cell 0 and right from cell 1 (R64, R69). -/
structure Frame where
  left : BitVec 16
  right : BitVec 16
deriving DecidableEq, Repr, Inhabited

/-- One call on a SID cell, as its trace records it (R40, R121 to R129). `clock` and the two rates are the
mathematical integers of the pseudocode (R9); `mode` is the emulator's own token (R128). -/
inductive CellCall where
  | write (addr : SidAddr) (value : Byte)
  | clock (cycles : Nat)
  | output
  | setChipModel (m : ChipModel)
  | reset
  | enableFilter (on : Bool)
  | enableExternalFilter (on : Bool)
  | setSamplingParameters (clkHz mode fsHz : Nat)
  | readState
deriving DecidableEq, Repr, Inhabited

/-- The operations. First the encoded units (files 30, 44, 45, 48), then the port operations (R105). Bits of a unit that the
spec ignores are kept as operands, so that an encoding loses no bit (R101). -/
inductive Instr where
  -- WINDOW4
  | scanMatch
  | scanMiss (b0 b1 b2 b3 : Byte)
  -- HDR12
  | hdr12Events (count : BitVec 13) (frame : Word32)
  | hdr12EventsMax (frame : Word32)
  | hdr12Command (frame : Word32)
  | hdr12Oversized (count : Word32) (frame : Word32)
  -- HDR10
  | hdr10Events (count : BitVec 13) (frame : Word32)
  | hdr10EventsMax (frame : Word32)
  | hdr10Command (frame : Word32)
  | hdr10Oversized (count : BitVec 16) (frame : Word32)
  -- EV6, EV8
  | ev6 (addrHi : BitVec 3) (addr : SidAddr) (value : Byte) (delta : Word32)
  | ev8 (chipHi : BitVec 6) (chip : BitVec 2) (addrHi : BitVec 3) (addr : SidAddr) (value pad : Byte) (delta : Word32)
  -- CMD
  | cmdCycleMode (p0 p1 p2 : Byte)
  | cmdSetVoiceMask (p0 p1 p2 : Byte)
  | cmdSetFilter (p0 p1 p2 : Byte)
  | cmdUnknown (op p0 p1 p2 : Byte)
  -- READY
  | readyLine
  -- SESSION
  | attach
  | txReadyByte
  | detach
  -- RX
  | pull
  | bufferFull
  | recentCapture (b : Byte)
  -- PARSER
  | scanMagic
  | readHeader
  | readEvents
  | readCommand
  | frameStart (count frame : Word32)
  | parserReset
  | controlDispatch (op p0 p1 p2 : Byte)
  -- telemetry
  | frameDone
  | driftUpdate (frame : Word32)
  -- queue; the operands of `push` are any integers (R181)
  | push (chipMask addr value delta : Int)
  | dropOldest
  | pop
  | peek
  | depth
  | queueReset
  | consumeCycles (run : Word32)
  -- flow
  | flowUpdate
  -- scheduler
  | renderSample
  | queueEvent (chipMask addr value delta : Int)
  | applyEvent (e : Event)
  | cellWrite (c : CellId) (addr : SidAddr) (value : Byte)
  | drainZero
  | gain (o : Word32)
  | cellInit (c : CellId)
  | cellConstruct (c : CellId)
  | engineReset
  | resetQueueState
  | getQueueDepth
  | getDroppedEventCount
  | getMonitor
  -- PUMP, pool, SINK
  | pumpAcquire
  | pumpRender
  | pumpCommit
  | takeFree
  | giveFull (buffer : Nat)
  | sinkFree
  -- the SID cell contract
  | sidWrite (c : CellId) (addr : SidAddr) (value : Byte)
  | sidClock (c : CellId) (cycles : Word32)
  | sidOutput (c : CellId)
  | sidSetChipModel (c : CellId) (m : ChipModel)
  | sidReset (c : CellId)
  | sidEnableFilter (c : CellId) (on : Bool)
  | sidEnableExternalFilter (c : CellId) (on : Bool)
  | sidSetSamplingParameters (c : CellId) (clkHz mode fsHz : Nat)
  | sidReadState (c : CellId)
deriving DecidableEq, Repr, Inhabited

/-- One turn of a run: which top-level operation, environment step or test-port operation comes next (R106, R278, R360).
`parse` is one transition of the PARSER agent; which unit it executes is read from the byte buffer. `readyLine` is the
transport that takes the whole line at once (R272). `setMockOut` sets `out` of a mock cell (R131). -/
inductive Choice where
  | attach | detach | txReadyByte | readyLine
  | pull
  | parse
  | pumpAcquire | pumpRender | pumpCommit
  | sinkFree
  | hostSend (b : Byte)
  | hostTxReady (ready : Bool)
  | hostFlushRx
  | setMockOut (c : CellId) (out : Word32)
  | queueEvent (chipMask addr value delta : Int)
  | renderSample
  | getQueueDepth | getDroppedEventCount | getMonitor
  | peek | depth
deriving DecidableEq, Repr, Inhabited

end Sys2Proof
end

