-- ==== Sys2Proof/Config.lean ====
section
/-!
DEFINITION. What is fixed for one pipeline: the constants of the wire, the straps sampled at power-on (spec/00_scope.md
R4 to R8, spec/10_state.md R21), the boot requirements on them (spec/70_reset_and_hazards.md R336), and the free values:
constants with no body that stand for what the spec leaves to something outside it.
-/

namespace Sys2Proof

/-- `MAGIC`, in wire order (R5, R67). -/
abbrev magic : List Byte := [0x53, 0x49, 0x44, 0x46]

/-- `MAX_COUNT` (R5). -/
abbrev maxCount : Nat := 8192

/-- `CMD_SENTINEL` (R5). -/
abbrev cmdSentinel : Nat := 0xFFFF

/-- `CMD_LEN` (R5). -/
abbrev cmdLen : Nat := 4

/-- `READY_LINE`, 14 bytes, `[DUMP] READY` CR LF (R5, R97). -/
def readyBytes : List Byte :=
  [0x5B, 0x44, 0x55, 0x4D, 0x50, 0x5D, 0x20, 0x52, 0x45, 0x41, 0x44, 0x59, 0x0D, 0x0A]

/-- The header variant the strap `HDR_LEN` selects (R88). -/
inductive HdrVariant where
  | hdr10 | hdr12
deriving DecidableEq, Repr, Inhabited

/-- `HDR_LEN` in bytes (R5). -/
def HdrVariant.len : HdrVariant → Nat
  | .hdr10 => 10
  | .hdr12 => 12

/-- The record variant the strap `REC_LEN` selects (R93). -/
inductive RecVariant where
  | ev6 | ev8
deriving DecidableEq, Repr, Inhabited

/-- `REC_LEN` in bytes (R5). -/
def RecVariant.len : RecVariant → Nat
  | .ev6 => 6
  | .ev8 => 8

/-- One row of a `mute_xform` given as a table: with exactly the voices `voices` muted, a write of `value` to `addr` becomes
a write of `result`. The key is `voice_mask[2:0]`: bits 7:3 have no effect (R101, R232). -/
structure MuteRow where
  voices : BitVec 3
  addr : SidAddr
  value : Byte
  result : Byte
deriving DecidableEq, Repr, Inhabited

/-- The parameter `mute_xform` (R8, R237) as plain data: the spec's default function, or any other function of its type,
written as the rows on which it differs from `v`. -/
inductive MuteXform where
  | default
  | table (rows : List MuteRow)
deriving DecidableEq, Repr, Inhabited

/-- The straps (R5 to R8), each under its own name; `mockCells` says that the two SID cells are the reference mock of
spec/40_sid_cell.md R131 and not an external emulator (R120). -/
structure Config where
  /-- `HDR_LEN` -/
  hdr : HdrVariant
  /-- `REC_LEN` -/
  rcd : RecVariant
  /-- `N` -/
  queueCap : Nat
  /-- `B` -/
  bufSize : Nat
  /-- `K` -/
  recentSize : Nat
  /-- `FRAMES` -/
  frames : Nat
  /-- `NBUF` -/
  nbuf : Nat
  /-- `CLK_HZ` -/
  clkHz : Nat
  /-- `FS_HZ` -/
  fsHz : Nat
  /-- `GAIN_NUM` -/
  gainNum : BitVec 16
  /-- `GAIN_DEN` -/
  gainDen : BitVec 16
  /-- `INIT_MODE` -/
  initMode : ModelMode
  /-- `HIGH_WM` -/
  highWm : Nat
  /-- `LOW_WM` -/
  lowWm : Nat
  /-- `EAGER_PARSE` -/
  eagerParse : Bool
  /-- `RESET_WRITES` -/
  resetWrites : List (SidAddr × Byte)
  /-- `FILTER_REGS` -/
  filterRegs : List SidAddr
  /-- `mute_xform` -/
  muteXform : MuteXform
  /-- `SAMPLING_MODE` -/
  samplingMode : Nat
  /-- `CELL_FILTER_EN` -/
  cellFilterEn : Bool
  /-- `CELL_EXTFILTER_EN` -/
  cellExtFilterEn : Bool
  /-- the cells are the mock of R131 -/
  mockCells : Bool
deriving DecidableEq, Repr, Inhabited

/-- The defaults of R5 to R8. `FRAMES`, `NBUF`, `INIT_MODE`, `SAMPLING_MODE`, `CELL_FILTER_EN` and `CELL_EXTFILTER_EN` have none
there: the values here are the model's (assumption log 2, DESIGN CHOICE). -/
def Config.standard : Config where
  hdr := .hdr12
  rcd := .ev6
  queueCap := 4096
  bufSize := 4096
  recentSize := 64
  frames := 96
  nbuf := 3
  clkHz := 985248
  fsHz := 44100
  gainNum := 3
  gainDen := 2
  initMode := .m6581
  highWm := 3968
  lowWm := 256
  eagerParse := true
  resetWrites := [(0x17, 0x00), (0x18, 0x0F)]
  filterRegs := [0x15, 0x16, 0x17]
  muteXform := .default
  samplingMode := 0
  cellFilterEn := true
  cellExtFilterEn := true
  mockCells := false

/-- `mute_xform(m, a, v) = v` whenever `m[2:0] = 0` (R8): no row is keyed by "no voice muted". -/
def MuteXform.lawful : MuteXform → Bool
  | .default => true
  | .table rows => rows.all fun r => r.voices ≠ 0

/-- Boot requirement 1 (R336). `HDR_LEN ∈ {10, 12}`, `REC_LEN ∈ {6, 8}`, `0 ≤ LOW_WM` and the ranges of the addresses hold by type. -/
def Config.valid (c : Config) : Bool :=
  2 ≤ c.queueCap && 12 ≤ c.bufSize && 1 ≤ c.recentSize && 1 ≤ c.frames && 2 ≤ c.nbuf &&
  0 < c.clkHz && c.clkHz < 2 ^ 32 && 0 < c.fsHz && c.fsHz < 2 ^ 32 && c.gainDen ≠ 0 &&
  c.lowWm < c.highWm && c.highWm ≤ c.queueCap && c.muteXform.lawful

/-- FREE VALUE (assumption log 4). What `output()` of an external cell returns (R123), from the calls that have changed the
cell since power-on. -/
opaque Config.cellOutput : CellId → List CellCall → Word32

/-- FREE VALUE (assumption log 4). `sid_register[addr]` of an external cell (R129). -/
opaque Config.cellRegister : CellId → List CellCall → SidAddr → Byte

/-- FREE VALUE (assumption log 4). `envelope_counter[k]` of a cell (R129); its width is not in the spec. -/
opaque Config.cellEnvelope : CellId → List CellCall → Nat → Nat

/-- FREE VALUE (assumption log 5). What a slot of `RING` holds that no push has written (R27: contents unspecified). -/
opaque Config.ringPowerOn : Nat → Event

/-- FREE VALUE (assumption log 5). What a frame of `AUDIO` holds that no render has written (R47: contents unspecified). -/
opaque Config.audioPowerOn : Nat → Frame

/-- FREE VALUE (assumption log 6). What comes next when the state's own schedule names nothing (R11, R302). -/
opaque Config.freeChoice : Nat → Choice

end Sys2Proof
end

