-- ==== Sys2Proof/WellFormed.lean ====
section
/-!
DEFINITION. Which terms of `Instr` are operations of the pipeline: the static conditions the spec puts on a unit or an
operand that its type does not carry already.
-/

namespace Sys2Proof

/-- The `count` values that are a header of neither kind (spec/30_encoding.md R89, class 3). -/
def oversizedCount (c : Nat) : Bool := c ≠ cmdSentinel && maxCount < c

/-- Opcodes that name no command (R96, R100). -/
def unknownOpcode (op : Byte) : Bool := op ≠ 0x01 && op ≠ 0x02 && op ≠ 0x03

/-- The static conditions, constructor by constructor. -/
def Instr.wellFormed : Instr → Bool
  | .scanMatch => true
  -- the catch-all of WINDOW4 (R104): any window but the magic
  | .scanMiss b0 b1 b2 b3 => [b0, b1, b2, b3] ≠ magic
  | .hdr12Events _ _ => true
  | .hdr12EventsMax _ => true
  | .hdr12Command _ => true
  | .hdr12Oversized c _ => oversizedCount c.toNat
  | .hdr10Events _ _ => true
  | .hdr10EventsMax _ => true
  | .hdr10Command _ => true
  | .hdr10Oversized c _ => oversizedCount c.toNat
  | .ev6 _ _ _ _ => true
  | .ev8 _ _ _ _ _ _ _ => true
  | .cmdCycleMode _ _ _ => true
  | .cmdSetVoiceMask _ _ _ => true
  | .cmdSetFilter _ _ _ => true
  | .cmdUnknown op _ _ _ => unknownOpcode op
  | .readyLine => true
  | .attach => true
  | .txReadyByte => true
  | .detach => true
  | .pull => true
  | .bufferFull => true
  | .recentCapture _ => true
  | .scanMagic => true
  | .readHeader => true
  | .readEvents => true
  | .readCommand => true
  -- only an accepted header starts a frame (R26, R205)
  | .frameStart c _ => !oversizedCount c.toNat
  | .parserReset => true
  | .controlDispatch _ _ _ _ => true
  | .frameDone => true
  | .driftUpdate _ => true
  | .push _ _ _ _ => true
  | .dropOldest => true
  | .pop => true
  | .peek => true
  | .depth => true
  | .queueReset => true
  -- 1 ≤ run (R192)
  | .consumeCycles run => run ≠ 0
  | .flowUpdate => true
  | .renderSample => true
  | .queueEvent _ _ _ _ => true
  | .applyEvent _ => true
  | .cellWrite _ _ _ => true
  | .drainZero => true
  | .gain _ => true
  | .cellInit _ => true
  | .cellConstruct _ => true
  | .engineReset => true
  | .resetQueueState => true
  | .getQueueDepth => true
  | .getDroppedEventCount => true
  | .getMonitor => true
  | .pumpAcquire => true
  | .pumpRender => true
  | .pumpCommit => true
  | .takeFree => true
  | .giveFull _ => true
  | .sinkFree => true
  | .sidWrite _ _ _ => true
  -- cycles ∈ 1..2^32 − 1 (R122)
  | .sidClock _ cycles => cycles ≠ 0
  | .sidOutput _ => true
  | .sidSetChipModel _ _ => true
  | .sidReset _ => true
  | .sidEnableFilter _ _ => true
  | .sidEnableExternalFilter _ _ => true
  | .sidSetSamplingParameters _ _ _ _ => true
  | .sidReadState _ => true

end Sys2Proof
end

