-- ==== Sys2Proof/Decode.lean ====
section
/-!
DEFINITION. The wire decoder, total on any bytes and rejecting by name, and after it the encoder, both written from the
encodings of spec/30_encoding.md R86 to R97 and spec/opcode_table.json. Which format the next bytes have is not in the
bytes: the parser state and the straps choose it (R98, R104), so a `Format` is an argument here.
-/

namespace Sys2Proof

/-- The formats of the encoded units (R104). -/
inductive Format where
  | window4 | hdr12 | hdr10 | ev6 | ev8 | cmd | ready
deriving DecidableEq, Repr, Inhabited

/-- Length of a unit in bytes (R85, R97). -/
def Format.len : Format → Nat
  | .window4 => 4
  | .hdr12 => 12
  | .hdr10 => 10
  | .ev6 => 6
  | .ev8 => 8
  | .cmd => cmdLen
  | .ready => 14

/-- Why bytes are not a unit of the format asked for. -/
inductive DecodeError where
  /-- fewer bytes than the unit has: the parser waits for the rest (R200). Safe. -/
  | tooShort (fmt : Format)
  /-- the first four bytes are not `MAGIC`, so the bytes are no header of either variant (R99). Safe. -/
  | noMagic
  /-- fourteen bytes that are not `READY_LINE`, the only unit of its direction (R97). Safe. -/
  | notReadyLine
deriving DecidableEq, Repr, Inhabited

/-- `u16le(b0, b1)` (R10): `b0` is the less significant byte. -/
def u16le (b0 b1 : Byte) : BitVec 16 := b1 ++ b0

/-- `u32le(b0, b1, b2, b3)` (R10). -/
def u32le (b0 b1 b2 b3 : Byte) : Word32 := b3 ++ b2 ++ b1 ++ b0

/-- The bits above and below bit 5 of a record's `addr` byte: the ignored ones and the register number (R91, R94). -/
def addrIgnored (b : Byte) : BitVec 3 := b.extractLsb' 5 3

/-- The register number of an `addr` byte (R91, R94). -/
def addrField (b : Byte) : SidAddr := b.extractLsb' 0 5

/-- The ignored bits of a `chip` byte (R92, R101). -/
def chipIgnored (b : Byte) : BitVec 6 := b.extractLsb' 2 6

/-- The chip mask of a `chip` byte (R92, R94). -/
def chipField (b : Byte) : BitVec 2 := b.extractLsb' 0 2

/-- The class of a 12-byte header's 32-bit `count` (R89): command, then events, then oversized. -/
def classifyHdr12 (c f : Word32) : Instr :=
  if c = 0xFFFF then .hdr12Command f
  else if c.toNat < 8192 then .hdr12Events (c.setWidth 13) f
  else if c = 8192 then .hdr12EventsMax f
  else .hdr12Oversized c f

/-- The class of a 10-byte header's 16-bit `count` (R89). -/
def classifyHdr10 (c : BitVec 16) (f : Word32) : Instr :=
  if c = 0xFFFF then .hdr10Command f
  else if c.toNat < 8192 then .hdr10Events (c.setWidth 13) f
  else if c = 8192 then .hdr10EventsMax f
  else .hdr10Oversized c f

/-- The opcode map (R96). -/
def classifyCommand (op p0 p1 p2 : Byte) : Instr :=
  if op = 0x01 then .cmdCycleMode p0 p1 p2
  else if op = 0x02 then .cmdSetVoiceMask p0 p1 p2
  else if op = 0x03 then .cmdSetFilter p0 p1 p2
  else .cmdUnknown op p0 p1 p2

/-- `SCAN.MATCH` or `SCAN.MISS` (R204). -/
def decodeWindow4 : List Byte → Except DecodeError Instr
  | b0 :: b1 :: b2 :: b3 :: _ => .ok (if [b0, b1, b2, b3] = magic then .scanMatch else .scanMiss b0 b1 b2 b3)
  | _ => .error (.tooShort .window4)

/-- A 12-byte header (R86, R89, R90). -/
def decodeHdr12 : List Byte → Except DecodeError Instr
  | m0 :: m1 :: m2 :: m3 :: c0 :: c1 :: c2 :: c3 :: f0 :: f1 :: f2 :: f3 :: _ =>
    if [m0, m1, m2, m3] = magic then .ok (classifyHdr12 (u32le c0 c1 c2 c3) (u32le f0 f1 f2 f3)) else .error .noMagic
  | _ => .error (.tooShort .hdr12)

/-- A 10-byte header (R87, R89, R90). -/
def decodeHdr10 : List Byte → Except DecodeError Instr
  | m0 :: m1 :: m2 :: m3 :: c0 :: c1 :: f0 :: f1 :: f2 :: f3 :: _ =>
    if [m0, m1, m2, m3] = magic then .ok (classifyHdr10 (u16le c0 c1) (u32le f0 f1 f2 f3)) else .error .noMagic
  | _ => .error (.tooShort .hdr10)

/-- A 6-byte record (R91). -/
def decodeEv6 : List Byte → Except DecodeError Instr
  | a :: v :: d0 :: d1 :: d2 :: d3 :: _ => .ok (.ev6 (addrIgnored a) (addrField a) v (u32le d0 d1 d2 d3))
  | _ => .error (.tooShort .ev6)

/-- An 8-byte record (R92). -/
def decodeEv8 : List Byte → Except DecodeError Instr
  | ch :: a :: v :: pad :: d0 :: d1 :: d2 :: d3 :: _ =>
    .ok (.ev8 (chipIgnored ch) (chipField ch) (addrIgnored a) (addrField a) v pad (u32le d0 d1 d2 d3))
  | _ => .error (.tooShort .ev8)

/-- A command record (R95). -/
def decodeCmd : List Byte → Except DecodeError Instr
  | op :: p0 :: p1 :: p2 :: _ => .ok (classifyCommand op p0 p1 p2)
  | _ => .error (.tooShort .cmd)

/-- The READY line (R97). -/
def decodeReady (bs : List Byte) : Except DecodeError Instr :=
  if bs.length < 14 then .error (.tooShort .ready)
  else if bs.take 14 = readyBytes then .ok .readyLine else .error .notReadyLine

/-- The unit of format `fmt` at the front of `bs`; what follows it is not looked at. -/
def decode : Format → List Byte → Except DecodeError Instr
  | .window4, bs => decodeWindow4 bs
  | .hdr12, bs => decodeHdr12 bs
  | .hdr10, bs => decodeHdr10 bs
  | .ev6, bs => decodeEv6 bs
  | .ev8, bs => decodeEv8 bs
  | .cmd, bs => decodeCmd bs
  | .ready, bs => decodeReady bs

/-- The format of an encoded unit; port operations have none (R105). -/
def Instr.format : Instr → Option Format
  | .scanMatch | .scanMiss .. => some .window4
  | .hdr12Events .. | .hdr12EventsMax .. | .hdr12Command .. | .hdr12Oversized .. => some .hdr12
  | .hdr10Events .. | .hdr10EventsMax .. | .hdr10Command .. | .hdr10Oversized .. => some .hdr10
  | .ev6 .. => some .ev6
  | .ev8 .. => some .ev8
  | .cmdCycleMode .. | .cmdSetVoiceMask .. | .cmdSetFilter .. | .cmdUnknown .. => some .cmd
  | .readyLine => some .ready
  | .attach | .txReadyByte | .detach | .pull | .bufferFull | .recentCapture .. | .scanMagic | .readHeader | .readEvents
  | .readCommand | .frameStart .. | .parserReset | .controlDispatch .. | .frameDone | .driftUpdate .. | .push ..
  | .dropOldest | .pop | .peek | .depth | .queueReset | .consumeCycles .. | .flowUpdate | .renderSample | .queueEvent ..
  | .applyEvent .. | .cellWrite .. | .drainZero | .gain .. | .cellInit .. | .cellConstruct .. | .engineReset
  | .resetQueueState | .getQueueDepth | .getDroppedEventCount | .getMonitor | .pumpAcquire | .pumpRender | .pumpCommit
  | .takeFree | .giveFull .. | .sinkFree | .sidWrite .. | .sidClock .. | .sidOutput .. | .sidSetChipModel ..
  | .sidReset .. | .sidEnableFilter .. | .sidEnableExternalFilter .. | .sidSetSamplingParameters .. | .sidReadState .. => none

/-- The two bytes of a u16, least significant first (R66). -/
def halfBytes (w : BitVec 16) : List Byte := [w.extractLsb' 0 8, w.extractLsb' 8 8]

/-- The four bytes of a u32, least significant first (R66). -/
def wordBytes (w : Word32) : List Byte := [w.extractLsb' 0 8, w.extractLsb' 8 8, w.extractLsb' 16 8, w.extractLsb' 24 8]

/-- The bytes of an encoded unit (R86, R87, R91, R92, R95, R97); a port operation has none. -/
def Instr.encode : Instr → List Byte
  | .scanMatch => magic
  | .scanMiss b0 b1 b2 b3 => [b0, b1, b2, b3]
  | .hdr12Events c f => magic ++ wordBytes (c.setWidth 32) ++ wordBytes f
  | .hdr12EventsMax f => magic ++ wordBytes 8192 ++ wordBytes f
  | .hdr12Command f => magic ++ wordBytes 0xFFFF ++ wordBytes f
  | .hdr12Oversized c f => magic ++ wordBytes c ++ wordBytes f
  | .hdr10Events c f => magic ++ halfBytes (c.setWidth 16) ++ wordBytes f
  | .hdr10EventsMax f => magic ++ halfBytes 8192 ++ wordBytes f
  | .hdr10Command f => magic ++ halfBytes 0xFFFF ++ wordBytes f
  | .hdr10Oversized c f => magic ++ halfBytes c ++ wordBytes f
  | .ev6 hi a v d => (hi ++ a) :: v :: wordBytes d
  | .ev8 chHi ch hi a v pad d => (chHi ++ ch) :: (hi ++ a) :: v :: pad :: wordBytes d
  | .cmdCycleMode p0 p1 p2 => [0x01, p0, p1, p2]
  | .cmdSetVoiceMask p0 p1 p2 => [0x02, p0, p1, p2]
  | .cmdSetFilter p0 p1 p2 => [0x03, p0, p1, p2]
  | .cmdUnknown op p0 p1 p2 => [op, p0, p1, p2]
  | .readyLine => readyBytes
  | .attach | .txReadyByte | .detach | .pull | .bufferFull | .recentCapture .. | .scanMagic | .readHeader | .readEvents
  | .readCommand | .frameStart .. | .parserReset | .controlDispatch .. | .frameDone | .driftUpdate .. | .push ..
  | .dropOldest | .pop | .peek | .depth | .queueReset | .consumeCycles .. | .flowUpdate | .renderSample | .queueEvent ..
  | .applyEvent .. | .cellWrite .. | .drainZero | .gain .. | .cellInit .. | .cellConstruct .. | .engineReset
  | .resetQueueState | .getQueueDepth | .getDroppedEventCount | .getMonitor | .pumpAcquire | .pumpRender | .pumpCommit
  | .takeFree | .giveFull .. | .sinkFree | .sidWrite .. | .sidClock .. | .sidOutput .. | .sidSetChipModel ..
  | .sidReset .. | .sidEnableFilter .. | .sidEnableExternalFilter .. | .sidSetSamplingParameters .. | .sidReadState .. => []

/-- The `n` bytes of a unit given as one integer, byte 0 least significant (R104). -/
def leBytes : Nat → Nat → List Byte
  | 0, _ => []
  | n + 1, w => BitVec.ofNat 8 w :: leBytes n (w / 256)

/-- The format in which a table row of `nbits` bits is read. Two formats have 32 bits, and only the parser state tells them
apart (R104); this function has no state, so it tries the rows of priority 1 first, and of the two catch-alls it
takes `SCAN.MISS` for a word with nothing above its low byte and `CMD.UNKNOWN` for the others (assumption log 7). -/
def tableFormat (nbits w : Nat) : Option Format :=
  match nbits with
  | 112 => some .ready
  | 96 => some .hdr12
  | 80 => some .hdr10
  | 64 => some .ev8
  | 48 => some .ev6
  | 32 =>
    if w % 2 ^ 32 = 0x46444953 then some .window4
    else if w % 256 = 1 || w % 256 = 2 || w % 256 = 3 then some .cmd
    else if w % 2 ^ 32 < 256 then some .window4
    else some .cmd
  | _ => none

/-- The unit the decoder reads from a table word; the port rows have no bits and are skipped (R104). -/
def decodeTableWord (nbits w : Nat) : Option Instr :=
  match tableFormat nbits w with
  | some fmt =>
    match decode fmt (leBytes fmt.len w) with
    | .ok i => some i
    | .error _ => none
  | none => none

end Sys2Proof
end

