-- ==== Sys2Proof/Machine/Memory.lean ====
section
/-!
DEFINITION. The memories of spec/20_memory.md R60 that are addressed by an absolute index (`RING`, `RECENT`, `AUDIO`): a list
of (address, content) pairs in one canonical form, addresses strictly rising. An unlisted address is one that nothing has
written; it has no value here, so no listed entry can equal one (assumption log 5).
-/

namespace Sys2Proof.Machine

/-- An indexed memory with cells of type `α`; for bytes this is a list of `Host.Cell`. -/
abbrev Memory (α : Type) := List (Nat × α)

/-- The canonical form: addresses strictly rising. -/
abbrev Memory.wf {α : Type} (m : Memory α) : Prop := (m.map Prod.fst).Pairwise (· < ·)

/-- `MemRead` of one cell; `none` where nothing has been written. -/
def memRead {α : Type} : Memory α → Nat → Option α
  | [], _ => none
  | (b, w) :: m, a => if a = b then some w else memRead m a

/-- `MemWrite` of one cell. -/
def memWrite {α : Type} : Memory α → Nat → α → Memory α
  | [], a, v => [(a, v)]
  | (b, w) :: m, a, v =>
    if a < b then (a, v) :: (b, w) :: m
    else if a = b then (a, v) :: m
    else (b, w) :: memWrite m a v

end Sys2Proof.Machine
end

