-- ==== Sys2Proof/Machine/Flags.lean ====
section
/-!
DEFINITION. The arithmetic of the pipeline's flags, counters and saturations, as functions of their operands alone
(spec/00_scope.md R10; R137, R146, R147, R246, R257).
-/

namespace Sys2Proof.Machine

/-- `satinc32(c)` (R10). -/
def satinc32 (c : Word32) : Word32 := if c = 0xFFFFFFFF then c else c + 1

/-- `satadd32(c, d)` (R10). -/
def satadd32 (c : Word32) (d : Nat) : Word32 := BitVec.ofNat 32 (min (c.toNat + d) (2 ^ 32 - 1))

/-- `sat16(z)` (R10, R147), an i16. -/
def sat16 (z : Int) : BitVec 16 :=
  BitVec.ofInt 16 (if z > 32767 then 32767 else if z < -32768 then -32768 else z)

/-- `gain(o) = trunc0(o · GAIN_NUM / GAIN_DEN)` for an i32 `o` (R146). -/
def gainOf (cfg : Config) (o : Word32) : Int := Int.tdiv (o.toInt * cfg.gainNum.toNat) cfg.gainDen.toNat

/-- The value `paused` takes at a depth (R246): hysteresis between the two watermarks. -/
def pausedAt (cfg : Config) (paused : Bool) (count : Nat) : Bool :=
  if !paused && decide (cfg.highWm ≤ count) then true
  else if paused && decide (count ≤ cfg.lowWm) then false
  else paused

/-- Step 1 of `render_sample` takes the forced branch (R137): `(acc + CLK_HZ) div FS_HZ < 1`. -/
def zeroCycle (cfg : Config) (acc : Nat) : Bool := (acc + cfg.clkHz) / cfg.fsHz < 1

/-- The cycle budget of one sample (R137). -/
def cycleBudget (cfg : Config) (acc : Nat) : Nat :=
  if zeroCycle cfg acc then 1 else (acc + cfg.clkHz) / cfg.fsHz

/-- The residual after one sample (R137). -/
def nextAcc (cfg : Config) (acc : Nat) : Nat :=
  if zeroCycle cfg acc then 0 else (acc + cfg.clkHz) % cfg.fsHz

/-- The first-frame offset: kept once valid (R257). -/
def offsetAfter (valid : Bool) (offset frame framesTotal : Word32) : Word32 :=
  if valid then offset else frame - framesTotal

end Sys2Proof.Machine
end

