-- ==== Sys2Proof/Machine/Operands.lean ====
section
/-!
DEFINITION. Operand forms: how the fields of a unit are assembled from the bytes at the front of `BUF` (spec/30_encoding.md
R89, R90, R94), how a port operand is narrowed (R181), and the tables that turn an operand into a selection (R32, R142,
R231, R237).
-/

namespace Sys2Proof.Machine

/-- `buf[i]` of a byte list; only used where the guard says that the byte is there (R61). -/
def byteAt (bs : List Byte) (i : Nat) : Byte := bs.getD i 0

/-- `u32le` of the four bytes at position `p` (R66). -/
def wordAt (bs : List Byte) (p : Nat) : Word32 :=
  u32le (byteAt bs p) (byteAt bs (p + 1)) (byteAt bs (p + 2)) (byteAt bs (p + 3))

/-- `u16le` of the two bytes at position `p` (R66). -/
def halfAt (bs : List Byte) (p : Nat) : BitVec 16 := u16le (byteAt bs p) (byteAt bs (p + 1))

/-- The decoded `count` of a header (R89): u32 with `HDR_LEN = 12`, u16 with `HDR_LEN = 10`. -/
def headerCount (v : HdrVariant) (bs : List Byte) : Word32 :=
  match v with
  | .hdr12 => wordAt bs 4
  | .hdr10 => (halfAt bs 4).setWidth 32

/-- The `frame` field of a header (R90). -/
def headerFrame (v : HdrVariant) (bs : List Byte) : Word32 := wordAt bs (v.len - 4)

/-- Operand assembly for the record at the front (R94). -/
def recordEvent (v : RecVariant) (bs : List Byte) : Event :=
  match v with
  | .ev6 =>
    { chipMask := 0, addr := addrField (byteAt bs 0), value := byteAt bs 1, delta := wordAt bs 2 }
  | .ev8 =>
    { chipMask := chipField (byteAt bs 0), addr := addrField (byteAt bs 1), value := byteAt bs 2, delta := wordAt bs 4 }

/-- `push` narrows its operands on entry: `chip_mask[1:0]`, `addr[4:0]`, `value[7:0]`, `delta[31:0]` (R181). -/
def narrowEvent (chipMask addr value delta : Int) : Event :=
  { chipMask := BitVec.ofInt 2 chipMask, addr := BitVec.ofInt 5 addr,
    value := BitVec.ofInt 8 value, delta := BitVec.ofInt 32 delta }

/-- Does an event reach this cell? A zero mask is broadcast (R142). -/
def selects (mask : BitVec 2) (c : CellId) : Bool :=
  match c with
  | .a => mask = 0 || mask.getLsbD 0
  | .b => mask = 0 || mask.getLsbD 1

/-- `model_of(mode, i)` (R32). -/
def modelOf (mode : ModelMode) (c : CellId) : ChipModel :=
  match mode, c with
  | .m6581, _ => .mos6581
  | .m8580, _ => .mos8580
  | .split, .a => .mos6581
  | .split, .b => .mos8580

/-- The next position of CYCLE_MODE (R231). -/
def nextMode : ModelMode → ModelMode
  | .m6581 => .m8580
  | .m8580 => .split
  | .split => .m6581

/-- The default `mute_xform` (R237): gate and waveform bits of a muted voice's control register cleared. -/
def muteDefault (voices : BitVec 3) (addr : SidAddr) (value : Byte) : Byte :=
  if (voices.getLsbD 0 && addr = 4) || (voices.getLsbD 1 && addr = 11) || (voices.getLsbD 2 && addr = 18)
  then value &&& 0x0E else value

/-- The row of a table that applies, or the value itself. -/
def muteLookup : List MuteRow → BitVec 3 → SidAddr → Byte → Byte
  | [], _, _, v => v
  | r :: rows, m, a, v => if r.voices = m && r.addr = a && r.value = v then r.result else muteLookup rows m a v

/-- `mute_xform(voice_mask, addr, value)` (R8, R237); only `voice_mask[2:0]` matters (R101). -/
def muteXform (x : MuteXform) (voiceMask : Byte) (addr : SidAddr) (value : Byte) : Byte :=
  match x with
  | .default => muteDefault (voiceMask.setWidth 3) addr value
  | .table rows => muteLookup rows (voiceMask.setWidth 3) addr value

/-- What `cell_write` passes to a cell (R143): nothing for a gated filter register, else the muted value. -/
def gatedWrite (cfg : Config) (voiceMask : Byte) (filterEn : Bool) (addr : SidAddr) (value : Byte) : Option Byte :=
  if !filterEn && cfg.filterRegs.contains addr then none
  else some (muteXform cfg.muteXform voiceMask addr value)

end Sys2Proof.Machine
end

