-- ==== Sys2Proof/Machine/Cell.lean ====
section
/-!
DEFINITION. What a SID cell shows (spec/40_sid_cell.md). An external cell is an object with hidden state of which nothing
is assumed (R120): its hidden state is stood for by the calls that have changed it, and its results are free values of that
history. The reference mock cell (R131) is computed from the same history.
-/

namespace Sys2Proof.Machine

/-- The operations that change a cell (R74); `output` and `read_state` do not. -/
def changesCell : CellCall → Bool
  | .write _ _ | .clock _ | .setChipModel _ | .reset | .enableFilter _ | .enableExternalFilter _
  | .setSamplingParameters _ _ _ => true
  | .output | .readState => false

/-- The calls of a trace that determine the cell's hidden state. -/
def cellHistory (trace : List CellCall) : List CellCall := trace.filter changesCell

/-- The mock cell's state (R131). R131 gives `regs`, `cycles_total` and `writes` after a `reset()`; the values here are those before
the first call, and that nothing has then been set of model, filters and sampling. DESIGN CHOICE (assumption log 19), unsafe for a
claim about a mock before its first `reset()`. -/
structure MockCell where
  regs : List Byte := List.replicate 32 0
  cyclesTotal : Nat := 0
  writes : List (Nat × SidAddr × Byte) := []
  model : Option ChipModel := none
  filter : Option Bool := none
  externalFilter : Option Bool := none
  sampling : Option (Nat × Nat × Nat) := none
deriving DecidableEq, Repr, Inhabited

/-- One call on the mock (R131). -/
def mockStep (k : MockCell) : CellCall → MockCell
  | .write a v => { k with regs := k.regs.set a.toNat v, writes := k.writes ++ [(k.cyclesTotal, a, v)] }
  | .clock n => { k with cyclesTotal := k.cyclesTotal + n }
  | .output => k
  | .setChipModel m => { k with model := some m }
  | .reset => { k with regs := List.replicate 32 0, cyclesTotal := 0, writes := [] }
  | .enableFilter b => { k with filter := some b }
  | .enableExternalFilter b => { k with externalFilter := some b }
  | .setSamplingParameters f m r => { k with sampling := some (f, m, r) }
  | .readState => k

/-- The mock after a trace. -/
def mockOf (trace : List CellCall) : MockCell := trace.foldl mockStep {}

/-- `output()` (R123): the mock's settable constant, or a free value of the history. -/
def cellOutputOf (cfg : Config) (c : CellId) (trace : List CellCall) (mockOut : Word32) : Word32 :=
  if cfg.mockCells then mockOut else Config.cellOutput c (cellHistory trace)

/-- What `read_state()` returns (R129). -/
structure CellState where
  sidRegister : List Byte
  envelopeCounter : List Nat
deriving DecidableEq, Repr, Inhabited

/-- `read_state()` (R129); the mock keeps no envelope counters, so they are free values for it too. -/
def cellStateOf (cfg : Config) (c : CellId) (trace : List CellCall) : CellState where
  sidRegister :=
    if cfg.mockCells then (mockOf trace).regs
    else (List.range 32).map fun a => Config.cellRegister c (cellHistory trace) (BitVec.ofNat 5 a)
  envelopeCounter := (List.range 3).map fun k => Config.cellEnvelope c (cellHistory trace) k

/-- The stereo frame of two raw outputs (R140): gain, then saturation; left is cell 0. -/
def frameOf (cfg : Config) (o0 o1 : Word32) : Frame :=
  { left := sat16 (gainOf cfg o0), right := sat16 (gainOf cfg o1) }

/-- The calls of `cell_construct(i)` (R149). -/
def constructCalls (cfg : Config) : List CellCall :=
  [.setSamplingParameters cfg.clkHz cfg.samplingMode cfg.fsHz, .enableFilter cfg.cellFilterEn,
   .enableExternalFilter cfg.cellExtFilterEn]

/-- The calls of `cell_init(i)` (R148). -/
def initCalls (cfg : Config) (mode : ModelMode) (c : CellId) : List CellCall :=
  [.setChipModel (modelOf mode c), .reset] ++ cfg.resetWrites.map fun w => .write w.1 w.2

/-- A cell's trace when construction and initialisation are done (R331 steps 3 and 4). -/
def bootCalls (cfg : Config) (c : CellId) : List CellCall := constructCalls cfg ++ initCalls cfg cfg.initMode c

/-- The cycle budgets of `n` samples rendered from residual `acc` on an empty queue (R137). -/
def idleCycles (cfg : Config) : Nat → Nat → List Nat
  | 0, _ => []
  | n + 1, acc => cycleBudget cfg acc :: idleCycles cfg n (nextAcc cfg acc)

/-- What those samples call on each cell: one `clock` and one `output` each (R139, R140). -/
def idleCalls : List Nat → List CellCall
  | [] => []
  | c :: cs => .clock c :: .output :: idleCalls cs

/-- The frames those samples put into `AUDIO` from address `j` on, the cells having traces `ta` and `tb` and the mock's
`out` at 0 (R140, R167). -/
def idleFrames (cfg : Config) : List Nat → Nat → List CellCall → List CellCall → Memory Frame
  | [], _, _, _ => []
  | c :: cs, j, ta, tb =>
    (j, frameOf cfg (cellOutputOf cfg .a (ta ++ [.clock c]) 0) (cellOutputOf cfg .b (tb ++ [.clock c]) 0)) ::
      idleFrames cfg cs (j + 1) (ta ++ [.clock c, .output]) (tb ++ [.clock c, .output])

end Sys2Proof.Machine
end

