-- ==== Sys2Proof/Machine/State.lean ====
section
/-!
DEFINITION. The state of the pipeline (spec/10_state.md R20 to R42), the reasons a step can stop, and the state right after
power-on reset (spec/70_reset_and_hazards.md R331). State is plain data, grouped by the agent that owns each part (R81).
-/

namespace Sys2Proof.Machine

/-- `sess` (R22). -/
inductive Session where
  | disconnected | awaitingHandshake | streaming
deriving DecidableEq, Repr, Inhabited

/-- `pstate` (R24). -/
inductive ParserState where
  | scanMagic | readHeader | readEvents | readCommand
deriving DecidableEq, Repr, Inhabited

/-- The parser registers and byte buffer (R24 to R26). The defaults are what `parser_reset` writes (R210). -/
structure Parser where
  pstate : ParserState := .scanMagic
  /-- `buf[0] ..`, oldest first; `buf_len` is its length (R25, R61) -/
  buf : List Byte := []
  curCount : Word32 := 0
  curFrame : Word32 := 0
  evLeft : Nat := 0
  frameEvents : Nat := 0
  frameBytes : Word32 := 0
deriving DecidableEq, Repr, Inhabited

/-- The event ring and its registers (R27, R28, R30). -/
structure Queue where
  ring : Memory Event := []
  head : Nat := 0
  tail : Nat := 0
  count : Nat := 0
  droppedCount : Word32 := 0
deriving DecidableEq, Repr, Inhabited

/-- The scheduler registers: the residual's numerator and the policy (R31 to R34). -/
structure Engine where
  acc : Nat := 0
  modelMode : ModelMode := .m6581
  voiceMask : Byte := 0
  filterEn : Bool := true
deriving DecidableEq, Repr, Inhabited

/-- The pump registers (R36). -/
structure Pump where
  active : Bool := false
  buf : Nat := 0
  idx : Nat := 0
deriving DecidableEq, Repr, Inhabited

/-- The session telemetry (R37, R38): exactly what ATTACH clears (R261), so the defaults are its cleared values. -/
structure Telemetry where
  framesTotal : Word32 := 0
  eventsTotal : Word32 := 0
  bytesTotal : Word32 := 0
  lastFrameIndex : Word32 := 0
  lastFrameEvents : Word32 := 0
  lastFrameBytes : Word32 := 0
  resyncCount : Word32 := 0
  buffullCount : Word32 := 0
  queuePeak : Nat := 0
  offsetValid : Bool := false
  frameOffset : Word32 := 0
  drift : Word32 := 0
deriving DecidableEq, Repr, Inhabited

/-- The recent-bytes ring (R39). -/
structure Recent where
  bytes : List Host.Cell := []
  wr : Nat := 0
deriving DecidableEq, Repr, Inhabited

/-- One SID cell as the pipeline sees it: its trace (R40), and the mock's settable `out` (R131), unused by an external cell. -/
structure Cell where
  trace : List CellCall := []
  out : Word32 := 0
deriving DecidableEq, Repr, Inhabited

/-- The condition of an audio buffer (R41). -/
inductive BufCond where
  | free | taken | full
deriving DecidableEq, Repr, Inhabited

/-- An audio buffer but for its frames, which are in `AUDIO` (R41). -/
structure Buffer where
  cond : BufCond := .free
  sampleCount : Nat := 0
deriving DecidableEq, Repr, Inhabited

/-- The audio pool and the sink (R41, R165, R172): the buffers, the FULL ones in commit order, `AUDIO` (frame `j` of buffer `b`
at address `b · FRAMES + j`), and the frames the sink has output. -/
structure Pool where
  buffers : List Buffer := []
  full : List Nat := []
  audio : Memory Frame := []
  played : List Frame := []
deriving DecidableEq, Repr, Inhabited

/-- The transport's byte streams and its transmit-space level (R42, R300). -/
structure Usb where
  rx : List Byte := []
  tx : List Byte := []
  txReady : Bool := true
deriving DecidableEq, Repr, Inhabited

/-- The seven error kinds with the info each records (R290). -/
inductive ErrorEvent where
  | magicLost (byte : Byte)
  | oversizedCount (count : Word32)
  | bufferFull
  | queueOverflow (dropped : Event)
  | noFreeBuffer
  | sessionReset
  | zeroCycle
deriving DecidableEq, Repr, Inhabited

/-- The code of an error kind (R290). -/
def ErrorEvent.code : ErrorEvent → Nat
  | .magicLost _ => 1
  | .oversizedCount _ => 2
  | .bufferFull => 3
  | .queueOverflow _ => 4
  | .noFreeBuffer => 5
  | .sessionReset => 6
  | .zeroCycle => 7

/-- An event on the status port (R263, R290). -/
inductive StatusEvent where
  | frameStart (frame : Word32)
  | frameDone (frame : Word32) (events : Nat) (bytes : Word32)
  | error (e : ErrorEvent)
deriving DecidableEq, Repr, Inhabited

/-- The tuple of `get_monitor()` (R152). -/
structure Monitor where
  cell0 : CellState
  cell1 : CellState
  count : Nat
  droppedCount : Word32
  queuePeak : Nat
  modelMode : ModelMode
  voiceMask : Byte
  filterEn : Bool
  paused : Bool
deriving DecidableEq, Repr, Inhabited

/-- What an operation with a result answers on its port (R141, R146, R152, R165, R181 to R185, R123, R129). -/
inductive PortValue where
  | none
  | bool (b : Bool)
  | event (e : Option Event)
  | nat (n : Nat)
  | word (w : Word32)
  | int (z : Int)
  | frame (f : Frame)
  | buffer (b : Option Nat)
  | cellState (k : CellState)
  | monitor (m : Monitor)
deriving DecidableEq, Repr, Inhabited

/-- The state of the pipeline. The last three fields are the model's own: the value the last operation with a result
answered, the part of the schedule that is given (R360), and the counter of the free choices made after it. -/
@[ext]
structure State where
  /-- the straps, read-only (R21) -/
  cfg : Config
  /-- `sess` (R22) -/
  sess : Session
  /-- `tx_idx` (R23) -/
  txIdx : Nat
  parser : Parser
  queue : Queue
  engine : Engine
  /-- `paused` (R35) -/
  paused : Bool
  pump : Pump
  tel : Telemetry
  recent : Recent
  /-- `cells[0]` (R40) -/
  cellA : Cell
  /-- `cells[1]` (R40) -/
  cellB : Cell
  pool : Pool
  usb : Usb
  /-- the status-port trace (R263, R290), oldest first -/
  status : List StatusEvent
  /-- the model's own: the result last answered on a port -/
  ret : PortValue
  /-- the model's own: the turns of the run that are given -/
  sched : List Choice
  /-- the model's own: how many free choices have been drawn -/
  draws : Nat
deriving DecidableEq, Repr, Inhabited

/-- Why the machine stops. The spec has no error that stops the pipeline (R290); this one is the environment naming an audio
buffer that the pool does not have. -/
inductive Fault where
  /-- `give_full` of an index that is no buffer of the pool (R41: indexes are `0..NBUF−1`). Raised by `execGiveFull`. Safe. -/
  | noSuchBuffer
deriving DecidableEq, Repr

/-- Operations to which the spec gives no meaning in the state at hand. -/
inductive Refusal where
  /-- the instruction has no meaning in this model yet. Raised by no arm of `exec`. Safe. -/
  | notModelled (mnemonic : String)
  /-- the straps break a boot requirement: "a model refuses the configuration" (R336). Raised by `step` and `powerOn`. Safe. -/
  | configuration
  /-- `drop_oldest` or `consume_cycles` with `count = 0`, outside its precondition (R182, R192). Safe. -/
  | queueEmpty
  /-- `consume_cycles(run)` with `run = 0` or `run > ring[head].delta`, outside its operand's range (R192). Safe. -/
  | runOutOfRange
  /-- `clock(0)`, outside the operand's range (R122). Raised by `execSidClock`. Safe. -/
  | clockZero
  /-- `give_full` of a buffer that is not TAKEN, outside the pool's contract (R165, R278). Raised by `execGiveFull`. Safe. -/
  | bufferNotTaken
deriving DecidableEq, Repr

/-- The outcome of an operation. -/
abbrev Outcome := Host.Outcome State Fault Refusal

/-- The power-on values of R47, the pool all FREE and the transport detached with nothing in it (R336). -/
def State.powerOnValues (cfg : Config) : State where
  cfg := cfg
  sess := .disconnected
  txIdx := 0
  parser := {}
  queue := {}
  engine := { modelMode := cfg.initMode }
  paused := false
  pump := {}
  tel := {}
  recent := {}
  cellA := {}
  cellB := {}
  pool := { buffers := List.replicate cfg.nbuf {} }
  usb := {}
  status := []
  ret := .none
  sched := []
  draws := 0

/-- What power-on reset leaves, written out (R331): R47's values, the two cells constructed, initialised and clocked through the
pre-fill, two buffers FULL. The reset sequence itself is `powerOn` in Machine/PowerOn.lean. -/
def State.afterPowerOn (cfg : Config) : State :=
  let cycles := idleCycles cfg (2 * cfg.frames) 0
  { State.powerOnValues cfg with
    engine := { acc := if cfg.fsHz ≤ cfg.clkHz then 2 * cfg.frames * cfg.clkHz % cfg.fsHz else 0, modelMode := cfg.initMode }
    pump := { buf := 1 }
    cellA := { trace := bootCalls cfg .a ++ idleCalls cycles }
    cellB := { trace := bootCalls cfg .b ++ idleCalls cycles }
    pool :=
      { buffers := List.replicate 2 { cond := .full, sampleCount := cfg.frames } ++ List.replicate (cfg.nbuf - 2) {}
        full := [0, 1]
        audio := idleFrames cfg cycles 0 (bootCalls cfg .a) (bootCalls cfg .b) }
    status := if cfg.fsHz ≤ cfg.clkHz then [] else List.replicate (2 * cfg.frames) (.error .zeroCycle) }

/-- The machine right after power-on reset (R331) with the default straps (R5 to R8; assumption logs 2 and 3). -/
def State.reset : State := State.afterPowerOn Config.standard

end Sys2Proof.Machine
end

