-- ==== Sys2Proof/Machine/Ops.lean ====
section
/-!
DEFINITION. The named operations over the pipeline's memories and registers that every family shares: raising an error event
(the pipeline's exception, spec/60_exceptions.md R290), emitting a status event, removing bytes from `BUF`, reading and writing
`RING` and `AUDIO`, calling a SID cell, and the guards of the PARSER agent (spec/44_frame_parser.md R200).
-/

namespace Sys2Proof.Machine

/-- Append an event to the status port (R263). -/
def emit (e : StatusEvent) (s : State) : State := { s with status := s.status ++ [e] }

/-- `raise <Error>(info)` (R290), the pipeline's exception entry: the error event is appended to the status-port trace and the
operation goes on. Nothing is saved, no mode changes, no control is transferred; so there is nothing to return from (R303). -/
def raise (e : ErrorEvent) (s : State) : State := emit (.error e) s

/-- `drop_front(n)` (R61). With fewer than `n` bytes held, which R61 leaves open, all of them go (assumption log 25). -/
def dropFront (n : Nat) (s : State) : State := { s with parser.buf := s.parser.buf.drop n }

/-- Write `pstate` (R24). -/
def setPstate (p : ParserState) (s : State) : State := { s with parser.pstate := p }

/-- One more in `resync_count`, saturating (R259). -/
def countResync (s : State) : State := { s with tel.resyncCount := satinc32 s.tel.resyncCount }

/-- `ring[i]`; a slot that nothing has written holds a free value (R27). -/
def ringAt (s : State) (i : Nat) : Event := (memRead s.queue.ring i).getD (Config.ringPowerOn i)

/-- `ring[head]`. -/
def headEvent (s : State) : Event := ringAt s s.queue.head

/-- `ring[head].delta`. -/
def headDelta (s : State) : Nat := (headEvent s).delta.toNat

/-- `cycles_to_next` (R29): a view; `none` is the sentinel infinity. -/
def cyclesToNext (s : State) : Option Nat := if s.queue.count > 0 then some (headDelta s) else none

/-- The successor of a ring index (R62). -/
def ringNext (s : State) (i : Nat) : Nat := (i + 1) % s.cfg.queueCap

/-- Write `ring[i].delta`. -/
def setRingDelta (i : Nat) (d : Word32) (s : State) : State :=
  { s with queue.ring := memWrite s.queue.ring i { ringAt s i with delta := d } }

/-- The events held, oldest first: `ring[(head + j) mod N]` for `0 ≤ j < count` (R48 item 2, R62). -/
def heldEvents (s : State) : List Event :=
  (List.range s.queue.count).map fun j => ringAt s ((s.queue.head + j) % s.cfg.queueCap)

/-- The address of frame `j` of buffer `b` in `AUDIO` (R60, R64). -/
def audioAddr (cfg : Config) (b j : Nat) : Nat := b * cfg.frames + j

/-- Frame `j` of buffer `b`; a frame that nothing has written holds a free value (R47). -/
def audioAt (s : State) (b j : Nat) : Frame :=
  (memRead s.pool.audio (audioAddr s.cfg b j)).getD (Config.audioPowerOn (audioAddr s.cfg b j))

/-- The cell `cells[c]` (R40). -/
def cellOf (s : State) : CellId → Cell
  | .a => s.cellA
  | .b => s.cellB

/-- `cells[c].op(args)`: the call is appended to the cell's trace (R10, R40). -/
def callCell (c : CellId) (k : CellCall) (s : State) : State :=
  match c with
  | .a => { s with cellA.trace := s.cellA.trace ++ [k] }
  | .b => { s with cellB.trace := s.cellB.trace ++ [k] }

/-- Several calls on one cell, in order. -/
def callCells (c : CellId) (ks : List CellCall) (s : State) : State := ks.foldl (fun t k => callCell c k t) s

/-- The value `cells[c].output()` has now (R123). -/
def outputNow (s : State) (c : CellId) : Word32 := cellOutputOf s.cfg c (cellOf s c).trace (cellOf s c).out

/-- The snapshot `cells[c].read_state()` gives now (R129). -/
def stateNow (s : State) (c : CellId) : CellState := cellStateOf s.cfg c (cellOf s c).trace

/-- Answer a value on the operation's port (the model's own register). -/
def answer (v : PortValue) (s : State) : State := { s with ret := v }

/-- How many bytes the parser needs in its state (R200): 4, `HDR_LEN`, `REC_LEN`, 4. -/
def parserNeed (cfg : Config) : ParserState → Nat
  | .scanMagic => 4
  | .readHeader => cfg.hdr.len
  | .readEvents => cfg.rcd.len
  | .readCommand => cmdLen

/-- A PARSER step is enabled in state `p` of the parser (R200, R204 to R207). -/
def parserReady (p : ParserState) (s : State) : Bool :=
  s.sess = .streaming && s.parser.pstate = p && parserNeed s.cfg p ≤ s.parser.buf.length

/-- Some PARSER step is enabled (R200, R211). -/
def parserEnabled (s : State) : Bool := parserReady s.parser.pstate s

/-- Is the magic at the front of `BUF` (R67)? -/
def magicAtFront (s : State) : Bool := s.parser.buf.take 4 = magic

end Sys2Proof.Machine
end

