-- ==== Sys2Proof/Machine/Queue.lean ====
section
/-!
DEFINITION. The event queue and the flow controller (spec/43_event_queue.md, spec/46_flow_control.md): the shared operations,
then one meaning per port operation.
-/

namespace Sys2Proof.Machine

/-- `flow_update()` (R246). -/
def flowUpdate (s : State) : State := { s with paused := pausedAt s.cfg s.paused s.queue.count }

/-- `drop_oldest()` with `count > 0` (R182): the oldest entry goes, its residual delta is added to the new head modulo 2^32
(R187), and `dropped_count` rises, saturating (R188). -/
def dropOldest (s : State) : State :=
  let old := headEvent s
  let s1 := raise (.queueOverflow old) s
  let s2 := { s1 with queue.head := ringNext s1 s1.queue.head, queue.count := s1.queue.count - 1 }
  let s3 := if s2.queue.count > 0 then setRingDelta s2.queue.head ((headEvent s2).delta + old.delta) s2 else s2
  { s3 with queue.droppedCount := satinc32 s3.queue.droppedCount }

/-- The store of `push` (R181): the entry at `tail`, `tail` and `count` advanced, `queue_peak` raised (R258). -/
def storeTail (e : Event) (s : State) : State :=
  { s with
    queue.ring := memWrite s.queue.ring s.queue.tail e
    queue.tail := ringNext s s.queue.tail
    queue.count := s.queue.count + 1
    tel.queuePeak := max s.tel.queuePeak (s.queue.count + 1) }

/-- `push` of a narrowed event (R181). -/
def push (e : Event) (s : State) : State :=
  flowUpdate (storeTail e (if s.queue.count = s.cfg.queueCap then dropOldest s else s))

/-- `pop` with `count > 0` (R183), the event being `headEvent`. -/
def popHead (s : State) : State :=
  flowUpdate { s with queue.head := ringNext s s.queue.head, queue.count := s.queue.count - 1 }

/-- `peek()` (R184). -/
def peekHead (s : State) : Option Event := if s.queue.count = 0 then none else some (headEvent s)

/-- The queue's `reset()` (R186). -/
def queueReset (s : State) : State :=
  flowUpdate { s with queue.head := 0, queue.tail := 0, queue.count := 0 }

/-- `consume_cycles(run)` inside its precondition (R192). -/
def consumeCycles (run : Nat) (s : State) : State :=
  setRingDelta s.queue.head (BitVec.ofNat 32 (headDelta s - run)) s

/-- R181: the operands are narrowed, the push always succeeds and answers true. -/
def execPush (m a v d : Int) (s : State) : Outcome := .next (answer (.bool true) (push (narrowEvent m a v d) s))

/-- R182, with its precondition `count > 0`. -/
def execDropOldest (s : State) : Outcome :=
  if s.queue.count = 0 then .refused .queueEmpty else .next (dropOldest s)

/-- R183. -/
def execPop (s : State) : Outcome :=
  if s.queue.count = 0 then .next (answer (.event none) s)
  else .next (answer (.event (some (headEvent s))) (popHead s))

/-- R184. -/
def execPeek (s : State) : Outcome := .next (answer (.event (peekHead s)) s)

/-- R185. -/
def execDepth (s : State) : Outcome := .next (answer (.nat s.queue.count) s)

/-- R186. -/
def execQueueReset (s : State) : Outcome := .next (queueReset s)

/-- R192, with its precondition `count > 0` and its operand's range `1 ≤ run ≤ ring[head].delta`. -/
def execConsumeCycles (run : Word32) (s : State) : Outcome :=
  if s.queue.count = 0 then .refused .queueEmpty
  else if run = 0 || headDelta s < run.toNat then .refused .runOutOfRange
  else .next (consumeCycles run.toNat s)

/-- R246. -/
def execFlowUpdate (s : State) : Outcome := .next (flowUpdate s)

end Sys2Proof.Machine
end

