-- ==== Sys2Proof/Machine/Scheduler.lean ====
section
/-!
DEFINITION. The event scheduler (spec/41_scheduler.md): rendering one sample, applying events through the policy gate, and
the initialisation and reset of the engine; the shared operations, then one meaning per port operation.
-/

namespace Sys2Proof.Machine

/-- `cell_write(i, addr, value)` (R143). -/
def cellWrite (c : CellId) (addr : SidAddr) (value : Byte) (s : State) : State :=
  match gatedWrite s.cfg s.engine.voiceMask s.engine.filterEn addr value with
  | none => s
  | some v => callCell c (.write addr v) s

/-- `cell_write` if the event selects the cell. -/
def cellWriteIf (e : Event) (c : CellId) (s : State) : State :=
  if selects e.chipMask c then cellWrite c e.addr e.value s else s

/-- `apply_event(e)` (R142): cell 0 before cell 1. -/
def applyEvent (e : Event) (s : State) : State := cellWriteIf e .b (cellWriteIf e .a s)

/-- `drain_zero()` (R144); each turn lowers `count`, so `fuel = count` turns are enough. -/
def drainLoop : Nat → State → State
  | 0, s => s
  | fuel + 1, s =>
    if s.queue.count > 0 ∧ headDelta s = 0 then drainLoop fuel (applyEvent (headEvent s) (popHead s)) else s

/-- `drain_zero()` (R144). -/
def drainZero (s : State) : State := drainLoop s.queue.count s

/-- Step 1 of `render_sample` (R137) on the state; the budget itself is `cycleBudget`. -/
def takeBudget (s : State) : State :=
  let s1 := if zeroCycle s.cfg s.engine.acc then raise .zeroCycle s else s
  { s1 with engine.acc := nextAcc s.cfg s.engine.acc }

/-- Both cells clocked by the same run, cell 0 first (R139, R353). -/
def clockBoth (run : Nat) (s : State) : State := callCell .b (.clock run) (callCell .a (.clock run) s)

/-- The length of the next segment (R139). -/
def segmentRun (cycles : Nat) (s : State) : Nat := if s.queue.count > 0 then min cycles (headDelta s) else cycles

/-- Step 3 of `render_sample`, the segment loop (R139). A turn that leaves cycles over has popped an event, so
`fuel = count + 1` turns are enough. -/
def segments : Nat → Nat → State → State
  | 0, _, s => s
  | fuel + 1, cycles, s =>
    if cycles = 0 then s
    else
      let run := segmentRun cycles s
      let s1 := clockBoth run s
      if s1.queue.count > 0 then
        let s2 := consumeCycles run s1
        if headDelta s2 = 0 then segments fuel (cycles - run) (drainZero (applyEvent (headEvent s2) (popHead s2)))
        else segments fuel (cycles - run) s2
      else segments fuel (cycles - run) s1

/-- Step 4's two `output()` calls, on the traces (R140). -/
def readOutputs (s : State) : State := callCell .b .output (callCell .a .output s)

/-- Steps 1 to 3 of `render_sample` (R137 to R139). -/
def advanceSample (s : State) : State :=
  let cycles := cycleBudget s.cfg s.engine.acc
  let s2 := drainZero (takeBudget s)
  segments (s2.queue.count + 1) cycles s2

/-- The frame of `render_sample` (R140): the outputs of the cells once they have been advanced. -/
def sampleFrame (s : State) : Frame :=
  frameOf s.cfg (outputNow (advanceSample s) .a) (outputNow (advanceSample s) .b)

/-- The state after `render_sample` (R141). -/
def renderSample (s : State) : State := readOutputs (advanceSample s)

/-- `cell_init(i)` (R148): model, reset, default registers, not through the gate. -/
def cellInit (c : CellId) (s : State) : State := callCells c (initCalls s.cfg s.engine.modelMode c) s

/-- `cell_construct(i)` (R149). -/
def cellConstruct (c : CellId) (s : State) : State := callCells c (constructCalls s.cfg) s

/-- `engine_reset()` (R150). -/
def engineReset (s : State) : State :=
  let s1 := queueReset s
  cellInit .b (cellInit .a { s1 with queue.droppedCount := 0, engine.acc := 0 })

/-- The snapshot of `get_monitor()` (R152). -/
def monitorNow (s : State) : Monitor where
  cell0 := stateNow s .a
  cell1 := stateNow s .b
  count := s.queue.count
  droppedCount := s.queue.droppedCount
  queuePeak := s.tel.queuePeak
  modelMode := s.engine.modelMode
  voiceMask := s.engine.voiceMask
  filterEn := s.engine.filterEn
  paused := s.paused

/-- R141. -/
def execRenderSample (s : State) : Outcome := .next (answer (.frame (sampleFrame s)) (renderSample s))

/-- R145: `queue_event` is `push`. -/
def execQueueEvent (m a v d : Int) (s : State) : Outcome := .next (answer (.bool true) (push (narrowEvent m a v d) s))

/-- R142. -/
def execApplyEvent (e : Event) (s : State) : Outcome := .next (applyEvent e s)

/-- R143. -/
def execCellWrite (c : CellId) (addr : SidAddr) (value : Byte) (s : State) : Outcome := .next (cellWrite c addr value s)

/-- R144. -/
def execDrainZero (s : State) : Outcome := .next (drainZero s)

/-- R146. -/
def execGain (o : Word32) (s : State) : Outcome := .next (answer (.int (gainOf s.cfg o)) s)

/-- R148. -/
def execCellInit (c : CellId) (s : State) : Outcome := .next (cellInit c s)

/-- R149. -/
def execCellConstruct (c : CellId) (s : State) : Outcome := .next (cellConstruct c s)

/-- R150. -/
def execEngineReset (s : State) : Outcome := .next (engineReset s)

/-- R151: the queue's `reset()` and nothing else. -/
def execResetQueueState (s : State) : Outcome := .next (queueReset s)

/-- R152. -/
def execGetQueueDepth (s : State) : Outcome := .next (answer (.nat s.queue.count) s)

/-- R152. -/
def execGetDroppedEventCount (s : State) : Outcome := .next (answer (.word s.queue.droppedCount) s)

/-- R152: `read_state()` is called on cell 0, then on cell 1; nothing else happens. -/
def execGetMonitor (s : State) : Outcome :=
  .next (answer (.monitor (monitorNow s)) (callCell .b .readState (callCell .a .readState s)))

end Sys2Proof.Machine
end

