-- ==== Sys2Proof/Machine/PumpOps.lean ====
section
/-!
DEFINITION. The sample pump, the audio pool and the sink (spec/42_sample_pump.md R165 to R172).
-/

namespace Sys2Proof.Machine

/-- The lowest FREE buffer (R165: which one is not observable; a model may take the lowest index). -/
def firstFree : List Buffer → Option Nat
  | [] => none
  | x :: xs => if x.cond = .free then some 0 else (firstFree xs).map (· + 1)

/-- Change one buffer of the pool. -/
def setBuffer (b : Nat) (f : Buffer → Buffer) (s : State) : State := { s with pool.buffers := s.pool.buffers.modify b f }

/-- A FREE buffer becomes TAKEN (R165). -/
def takeBuffer (b : Nat) (s : State) : State := setBuffer b (fun x => { x with cond := .taken }) s

/-- `give_full(b)` (R165): the buffer becomes FULL and joins the sink's queue. -/
def giveFull (b : Nat) (s : State) : State :=
  let s1 := setBuffer b (fun x => { x with cond := .full }) s
  { s1 with pool.full := s1.pool.full ++ [b] }

/-- Is buffer `b` TAKEN? -/
def bufferTaken (s : State) (b : Nat) : Bool := (s.pool.buffers[b]?).any fun x => x.cond = .taken

/-- `PUMP_ACQUIRE` (R166). -/
def pumpAcquire (s : State) : State :=
  if s.pump.active then s
  else
    match firstFree s.pool.buffers with
    | none => raise .noFreeBuffer s
    | some b =>
      let s1 := takeBuffer b s
      { s1 with pump := { active := true, buf := b, idx := 0 } }

/-- `PUMP_RENDER` (R167). -/
def pumpRender (s : State) : State :=
  if s.pump.active && s.pump.idx < s.cfg.frames then
    let s1 := renderSample s
    { s1 with
      pool.audio := memWrite s1.pool.audio (audioAddr s1.cfg s1.pump.buf s1.pump.idx) (sampleFrame s)
      pump.idx := s1.pump.idx + 1 }
  else s

/-- `PUMP_COMMIT` (R168). -/
def pumpCommit (s : State) : State :=
  if s.pump.active && s.pump.idx = s.cfg.frames then
    let s1 := giveFull s.pump.buf (setBuffer s.pump.buf (fun x => { x with sampleCount := s.cfg.frames }) s)
    { s1 with pump.active := false, pump.idx := 0 }
  else s

/-- The frames the sink outputs from buffer `b`, in index order (R171, R172). -/
def bufferFrames (s : State) (b : Nat) : List Frame :=
  (List.range ((s.pool.buffers[b]?).elim 0 Buffer.sampleCount)).map fun j => audioAt s b j

/-- The sink's step (R172): the oldest FULL buffer is output and becomes FREE. -/
def sinkFree (s : State) : State :=
  match s.pool.full with
  | [] => s
  | b :: rest =>
    let s1 := setBuffer b (fun x => { x with cond := .free }) s
    { s1 with pool.full := rest, pool.played := s1.pool.played ++ bufferFrames s b }

/-- R166. -/
def execPumpAcquire (s : State) : Outcome := .next (pumpAcquire s)

/-- R167. -/
def execPumpRender (s : State) : Outcome := .next (pumpRender s)

/-- R168. -/
def execPumpCommit (s : State) : Outcome := .next (pumpCommit s)

/-- R165: answers the buffer, or none where no buffer is FREE. -/
def execTakeFree (s : State) : Outcome :=
  match firstFree s.pool.buffers with
  | none => .next (answer (.buffer none) s)
  | some b => .next (answer (.buffer (some b)) (takeBuffer b s))

/-- R165, for a TAKEN buffer of the pool. -/
def execGiveFull (b : Nat) (s : State) : Outcome :=
  if s.pool.buffers.length ≤ b then .fault .noSuchBuffer
  else if bufferTaken s b then .next (giveFull b s)
  else .refused .bufferNotTaken

/-- R172. -/
def execSinkFree (s : State) : Outcome := .next (sinkFree s)

end Sys2Proof.Machine
end

