-- ==== Sys2Proof/Machine/Rx.lean ====
section
/-!
DEFINITION. The RX agent (spec/44_frame_parser.md R201 to R203, R211).
-/

namespace Sys2Proof.Machine

/-- `buffer_full()` (R202): the oldest half goes, `pstate` and the frame registers stay. DESIGN CHOICE (assumption log 25): called on
its own with fewer than `B div 2` bytes held, it empties `BUF`, and reports and counts as ever. -/
def bufferFull (s : State) : State :=
  let s1 := dropFront (s.cfg.bufSize / 2) (raise .bufferFull s)
  { s1 with tel.buffullCount := satinc32 s1.tel.buffullCount }

/-- `recent_capture(b)` (R203). -/
def recentCapture (b : Byte) (s : State) : State :=
  { s with
    recent.bytes := memWrite s.recent.bytes s.recent.wr b
    recent.wr := (s.recent.wr + 1) % s.cfg.recentSize }

/-- `buf[buf_len] <- b` (R61, R201). -/
def appendBuf (b : Byte) (s : State) : State := { s with parser.buf := s.parser.buf ++ [b] }

/-- The guard of `PULL` but for `rx` not being empty (R201, R211). -/
def pullAllowed (s : State) : Bool :=
  s.sess = .streaming && !s.paused && !(s.cfg.eagerParse && parserEnabled s)

/-- `PULL` of byte `b`, the rest of `rx` being `rest` (R201). -/
def pullByte (b : Byte) (rest : List Byte) (s : State) : State :=
  let s1 := { s with usb.rx := rest }
  recentCapture b (appendBuf b (if s1.parser.buf.length = s1.cfg.bufSize then bufferFull s1 else s1))

/-- R201; with its guard false nothing is pulled. -/
def execPull (s : State) : Outcome :=
  match s.usb.rx with
  | [] => .next s
  | b :: rest => .next (if pullAllowed s then pullByte b rest s else s)

/-- R202. -/
def execBufferFull (s : State) : Outcome := .next (bufferFull s)

/-- R203. -/
def execRecentCapture (b : Byte) (s : State) : Outcome := .next (recentCapture b s)

end Sys2Proof.Machine
end

