-- ==== Sys2Proof/Machine/Control.lean ====
section
/-!
DEFINITION. The control handler (spec/45_control.md R230 to R234): the three commands and their dispatch.
-/

namespace Sys2Proof.Machine

/-- `cycle_mode()` (R231): the next mode, both cells initialised with it, everything else kept. -/
def cycleMode (s : State) : State := cellInit .b (cellInit .a { s with engine.modelMode := nextMode s.engine.modelMode })

/-- `set_voice_mask(p0)` (R232): all eight bits are stored. -/
def setVoiceMask (p0 : Byte) (s : State) : State := { s with engine.voiceMask := p0 }

/-- `set_filter(p0)` (R233): any non-zero byte enables. -/
def setFilter (p0 : Byte) (s : State) : State := { s with engine.filterEn := p0 ≠ 0 }

/-- `control_dispatch(op, p0, p1, p2)` (R230); an unknown opcode does nothing (R234). -/
def controlDispatch (op p0 : Byte) (s : State) : State :=
  if op = 0x01 then cycleMode s
  else if op = 0x02 then setVoiceMask p0 s
  else if op = 0x03 then setFilter p0 s
  else s

/-- R230; `p1` and `p2` are never used. -/
def execControlDispatch (op p0 _p1 _p2 : Byte) (s : State) : Outcome := .next (controlDispatch op p0 s)

end Sys2Proof.Machine
end

