-- ==== Sys2Proof/Machine/Telemetry.lean ====
section
/-!
DEFINITION. Frame accounting (spec/47_telemetry.md R256, R257; spec/44_frame_parser.md R208, R209).
-/

namespace Sys2Proof.Machine

/-- `drift_update(f)` (R257); `frames_total` is the value before the frame is counted. -/
def driftUpdate (frame : Word32) (s : State) : State :=
  let offset := offsetAfter s.tel.offsetValid s.tel.frameOffset frame s.tel.framesTotal
  { s with tel.offsetValid := true, tel.frameOffset := offset, tel.drift := frame - s.tel.framesTotal - offset }

/-- The sums and latches of `frame_done()` (R256). -/
def accountFrame (s : State) : State :=
  { s with
    tel.framesTotal := satinc32 s.tel.framesTotal
    tel.eventsTotal := satadd32 s.tel.eventsTotal s.parser.frameEvents
    tel.bytesTotal := satadd32 s.tel.bytesTotal s.parser.frameBytes.toNat
    tel.lastFrameIndex := s.parser.curFrame
    tel.lastFrameEvents := BitVec.ofNat 32 s.parser.frameEvents
    tel.lastFrameBytes := s.parser.frameBytes }

/-- `frame_done()` (R256). -/
def frameDone (s : State) : State :=
  emit (.frameDone s.parser.curFrame s.parser.frameEvents s.parser.frameBytes) (accountFrame (driftUpdate s.parser.curFrame s))

/-- `frame_start(c, f)` (R209). -/
def frameStart (count frame : Word32) (s : State) : State :=
  emit (.frameStart frame)
    { s with
      parser.curCount := count, parser.curFrame := frame, parser.frameEvents := 0
      parser.frameBytes := BitVec.ofNat 32 s.cfg.hdr.len, parser.evLeft := 0 }

/-- R209. -/
def execFrameStart (count frame : Word32) (s : State) : Outcome := .next (frameStart count frame s)

/-- R256. -/
def execFrameDone (s : State) : Outcome := .next (frameDone s)

/-- R257. -/
def execDriftUpdate (frame : Word32) (s : State) : Outcome := .next (driftUpdate frame s)

end Sys2Proof.Machine
end

