-- ==== Sys2Proof/Machine/ParserSteps.lean ====
section
/-!
DEFINITION. The PARSER agent's four steps as the spec's pseudocode gives them, over the bytes of `BUF`
(spec/44_frame_parser.md R204 to R207, R210). Where a step's guard is false it is not enabled: the parser waits and nothing
changes (R200). The same steps as execution of decoded units are in Machine/Wire.lean.
-/

namespace Sys2Proof.Machine

/-- `parser_reset()` (R210). -/
def parserReset (s : State) : State := { s with parser := {} }

/-- The treatment of `MagicLost` (R204, R205, R291): one byte discarded and counted, scanning resumed. -/
def loseMagic (byte : Byte) (s : State) : State :=
  setPstate .scanMagic (countResync (dropFront 1 (raise (.magicLost byte) s)))

/-- The treatment of `OversizedCount` (R205, R292): one byte, not the header. -/
def rejectCount (count : Word32) (s : State) : State :=
  setPstate .scanMagic (countResync (dropFront 1 (raise (.oversizedCount count) s)))

/-- An accepted command header (R205). -/
def acceptCommand (frame : Word32) (s : State) : State :=
  setPstate .readCommand (frameStart 0xFFFF frame (dropFront s.cfg.hdr.len s))

/-- An accepted event header (R205): an empty frame is done at once. -/
def acceptEvents (count frame : Word32) (s : State) : State :=
  let s1 := frameStart count frame (dropFront s.cfg.hdr.len s)
  if count = 0 then setPstate .scanMagic (frameDone s1)
  else setPstate .readEvents { s1 with parser.evLeft := count.toNat }

/-- One event record of the frame in progress (R206). -/
def acceptRecord (e : Event) (s : State) : State :=
  let s1 := push e (dropFront s.cfg.rcd.len s)
  let s2 :=
    { s1 with
      parser.evLeft := s1.parser.evLeft - 1
      parser.frameEvents := s1.parser.frameEvents + 1
      parser.frameBytes := s1.parser.frameBytes + BitVec.ofNat 32 s1.cfg.rcd.len }
  if s2.parser.evLeft = 0 then setPstate .scanMagic (frameDone s2) else s2

/-- The command record of the frame in progress (R207). -/
def acceptCommandRecord (op p0 : Byte) (s : State) : State :=
  let s1 := controlDispatch op p0 (dropFront cmdLen s)
  setPstate .scanMagic (frameDone { s1 with parser.frameBytes := s1.parser.frameBytes + 4 })

/-- The `SCAN_MAGIC` step's effect (R204). -/
def scanStep (s : State) : State :=
  if magicAtFront s then setPstate .readHeader s else loseMagic (byteAt s.parser.buf 0) s

/-- The `READ_HEADER` step's effect (R205), the tests in its order. -/
def headerStep (s : State) : State :=
  let c := headerCount s.cfg.hdr s.parser.buf
  let f := headerFrame s.cfg.hdr s.parser.buf
  if !magicAtFront s then loseMagic (byteAt s.parser.buf 0) s
  else if c.toNat = cmdSentinel then acceptCommand f s
  else if c.toNat ≤ maxCount then acceptEvents c f s
  else rejectCount c s

/-- The `READ_EVENTS` step's effect (R206). -/
def recordStep (s : State) : State := acceptRecord (recordEvent s.cfg.rcd s.parser.buf) s

/-- The `READ_COMMAND` step's effect (R207). -/
def commandStep (s : State) : State := acceptCommandRecord (byteAt s.parser.buf 0) (byteAt s.parser.buf 1) s

/-- R204. -/
def execScanMagic (s : State) : Outcome := .next (if parserReady .scanMagic s then scanStep s else s)

/-- R205. -/
def execReadHeader (s : State) : Outcome := .next (if parserReady .readHeader s then headerStep s else s)

/-- R206. -/
def execReadEvents (s : State) : Outcome := .next (if parserReady .readEvents s then recordStep s else s)

/-- R207. -/
def execReadCommand (s : State) : Outcome := .next (if parserReady .readCommand s then commandStep s else s)

/-- R210. -/
def execParserReset (s : State) : Outcome := .next (parserReset s)

end Sys2Proof.Machine
end

