-- ==== Sys2Proof/Machine/SessionOps.lean ====
section
/-!
DEFINITION. The SESSION agent (spec/48_session.md R271 to R275) and the READY line it sends (R97).
-/

namespace Sys2Proof.Machine

/-- The body of `ATTACH` (R271): engine, parser and session telemetry reset (R261), then the handshake begins. -/
def attachSession (s : State) : State :=
  let s1 := parserReset (engineReset s)
  { s1 with tel := {}, txIdx := 0, sess := .awaitingHandshake }

/-- The body of `DETACH` (R273): parser and queue reset, cells and policy kept. -/
def detachSession (s : State) : State :=
  let s1 := queueReset (parserReset (raise .sessionReset s))
  { s1 with sess := .disconnected }

/-- One `TX_READY_BYTE` (R272), or nothing where its guard is false. -/
def txReadyByte (s : State) : State :=
  if s.sess = .awaitingHandshake && s.usb.txReady then
    let s1 := { s with usb.tx := s.usb.tx ++ [byteAt readyBytes s.txIdx], txIdx := s.txIdx + 1 }
    if s1.txIdx = 14 then { s1 with sess := .streaming } else s1
  else s

/-- `n` executions of `TX_READY_BYTE` back to back. -/
def txReadyBytes : Nat → State → State
  | 0, s => s
  | n + 1, s => txReadyBytes n (txReadyByte s)

/-- R271; an attach with `sess ≠ DISCONNECTED` is ignored (R275). -/
def execAttach (s : State) : Outcome := .next (if s.sess = .disconnected then attachSession s else s)

/-- R272. -/
def execTxReadyByte (s : State) : Outcome := .next (txReadyByte s)

/-- R273; a detach with `sess = DISCONNECTED` is ignored (R275). -/
def execDetach (s : State) : Outcome := .next (if s.sess = .disconnected then s else detachSession s)

/-- `READY_LINE` (R97): "a transport that takes the 14 bytes at once performs the 14 steps back to back" (R272). -/
def execReadyLine (s : State) : Outcome := .next (txReadyBytes 14 s)

end Sys2Proof.Machine
end

