-- ==== Sys2Proof/Machine/SidCell.lean ====
section
/-!
DEFINITION. The nine operations of the SID cell contract (spec/40_sid_cell.md R121 to R129), as port operations: each is
recorded in the cell's trace and none waits or raises an error (R120); the two that return a value answer it on the port.
-/

namespace Sys2Proof.Machine

/-- R121. -/
def execSidWrite (c : CellId) (addr : SidAddr) (value : Byte) (s : State) : Outcome := .next (callCell c (.write addr value) s)

/-- R122: the operand is `1..2^32 − 1`; the pipeline never calls `clock(0)`. -/
def execSidClock (c : CellId) (cycles : Word32) (s : State) : Outcome :=
  if cycles = 0 then .refused .clockZero else .next (callCell c (.clock cycles.toNat) s)

/-- R123. -/
def execSidOutput (c : CellId) (s : State) : Outcome := .next (answer (.word (outputNow s c)) (callCell c .output s))

/-- R124. -/
def execSidSetChipModel (c : CellId) (m : ChipModel) (s : State) : Outcome := .next (callCell c (.setChipModel m) s)

/-- R125. -/
def execSidReset (c : CellId) (s : State) : Outcome := .next (callCell c .reset s)

/-- R126. -/
def execSidEnableFilter (c : CellId) (on : Bool) (s : State) : Outcome := .next (callCell c (.enableFilter on) s)

/-- R127. -/
def execSidEnableExternalFilter (c : CellId) (on : Bool) (s : State) : Outcome :=
  .next (callCell c (.enableExternalFilter on) s)

/-- R128. -/
def execSidSetSamplingParameters (c : CellId) (clkHz mode fsHz : Nat) (s : State) : Outcome :=
  .next (callCell c (.setSamplingParameters clkHz mode fsHz) s)

/-- R129. -/
def execSidReadState (c : CellId) (s : State) : Outcome := .next (answer (.cellState (stateNow s c)) (callCell c .readState s))

end Sys2Proof.Machine
end

