-- ==== Sys2Proof/Machine/Wire.lean ====
section
/-!
DEFINITION. The meanings of the encoded units that come from the host (spec/30_encoding.md R86 to R96, executed by the
PARSER steps of spec/44_frame_parser.md). A unit is executed in the parser state and under the strap that select its format
(R104) and with its bytes in `BUF`; elsewhere no step is enabled and nothing changes (R200).
-/

namespace Sys2Proof.Machine

/-- A header unit of variant `v` can be executed now. -/
def headerReady (v : HdrVariant) (s : State) : Bool := s.cfg.hdr = v && parserReady .readHeader s

/-- A record unit of variant `v` can be executed now. -/
def recordReady (v : RecVariant) (s : State) : Bool := s.cfg.rcd = v && parserReady .readEvents s

/-- `SCAN.MATCH` (R204): nothing is consumed. -/
def execScanMatch (s : State) : Outcome := .next (if parserReady .scanMagic s then setPstate .readHeader s else s)

/-- `SCAN.MISS` (R204), and the re-check of `READ_HEADER` when the magic is gone (R205). -/
def execScanMiss (b0 _b1 _b2 _b3 : Byte) (s : State) : Outcome :=
  .next (if parserReady .scanMagic s || parserReady .readHeader s then loseMagic b0 s else s)

/-- `HDR12.EVENTS` (R205), `count` in `0..8191`. -/
def execHdr12Events (count : BitVec 13) (frame : Word32) (s : State) : Outcome :=
  .next (if headerReady .hdr12 s then acceptEvents (count.setWidth 32) frame s else s)

/-- `HDR12.EVENTS_MAX` (R205), `count = 8192`. -/
def execHdr12EventsMax (frame : Word32) (s : State) : Outcome :=
  .next (if headerReady .hdr12 s then acceptEvents 8192 frame s else s)

/-- `HDR12.COMMAND` (R205). -/
def execHdr12Command (frame : Word32) (s : State) : Outcome :=
  .next (if headerReady .hdr12 s then acceptCommand frame s else s)

/-- `HDR12.OVERSIZED` (R205). -/
def execHdr12Oversized (count _frame : Word32) (s : State) : Outcome :=
  .next (if headerReady .hdr12 s then rejectCount count s else s)

/-- `HDR10.EVENTS` (R205), `count` in `0..8191`. -/
def execHdr10Events (count : BitVec 13) (frame : Word32) (s : State) : Outcome :=
  .next (if headerReady .hdr10 s then acceptEvents (count.setWidth 32) frame s else s)

/-- `HDR10.EVENTS_MAX` (R205), `count = 8192`. -/
def execHdr10EventsMax (frame : Word32) (s : State) : Outcome :=
  .next (if headerReady .hdr10 s then acceptEvents 8192 frame s else s)

/-- `HDR10.COMMAND` (R205). -/
def execHdr10Command (frame : Word32) (s : State) : Outcome :=
  .next (if headerReady .hdr10 s then acceptCommand frame s else s)

/-- `HDR10.OVERSIZED` (R205). -/
def execHdr10Oversized (count : BitVec 16) (_frame : Word32) (s : State) : Outcome :=
  .next (if headerReady .hdr10 s then rejectCount (count.setWidth 32) s else s)

/-- `EV6` (R94, R206): broadcast; the high bits of the address byte are ignored. -/
def execEv6 (_addrHi : BitVec 3) (addr : SidAddr) (value : Byte) (delta : Word32) (s : State) : Outcome :=
  .next (if recordReady .ev6 s then acceptRecord { chipMask := 0, addr := addr, value := value, delta := delta } s else s)

/-- `EV8` (R94, R206): the ignored bits and the pad byte change nothing. -/
def execEv8 (_chipHi : BitVec 6) (chip : BitVec 2) (_addrHi : BitVec 3) (addr : SidAddr) (value _pad : Byte) (delta : Word32)
    (s : State) : Outcome :=
  .next (if recordReady .ev8 s then acceptRecord { chipMask := chip, addr := addr, value := value, delta := delta } s else s)

/-- `CMD.CYCLE_MODE` (R207, R231). -/
def execCmdCycleMode (p0 _p1 _p2 : Byte) (s : State) : Outcome :=
  .next (if parserReady .readCommand s then acceptCommandRecord 0x01 p0 s else s)

/-- `CMD.SET_VOICE_MASK` (R207, R232). -/
def execCmdSetVoiceMask (p0 _p1 _p2 : Byte) (s : State) : Outcome :=
  .next (if parserReady .readCommand s then acceptCommandRecord 0x02 p0 s else s)

/-- `CMD.SET_FILTER` (R207, R233). -/
def execCmdSetFilter (p0 _p1 _p2 : Byte) (s : State) : Outcome :=
  .next (if parserReady .readCommand s then acceptCommandRecord 0x03 p0 s else s)

/-- `CMD.UNKNOWN` (R207, R234): consumed silently, the frame accounted. -/
def execCmdUnknown (op p0 _p1 _p2 : Byte) (s : State) : Outcome :=
  .next (if parserReady .readCommand s then acceptCommandRecord op p0 s else s)

end Sys2Proof.Machine
end

