-- ==== Sys2Proof/Machine/Dispatch.lean ====
section
/-! DEFINITION. The dispatch: one arm per operation of spec/opcode_table.json, in the order of `Instr`. -/

namespace Sys2Proof.Machine

/-- One operation (spec/00_scope.md R11). -/
def exec (i : Instr) (s : State) : Host.Outcome State Fault Refusal :=
  match i with
  | .scanMatch => Sys2Proof.Machine.execScanMatch s
  | .scanMiss b0 b1 b2 b3 => Sys2Proof.Machine.execScanMiss b0 b1 b2 b3 s
  | .hdr12Events count frame => Sys2Proof.Machine.execHdr12Events count frame s
  | .hdr12EventsMax frame => Sys2Proof.Machine.execHdr12EventsMax frame s
  | .hdr12Command frame => Sys2Proof.Machine.execHdr12Command frame s
  | .hdr12Oversized count frame => Sys2Proof.Machine.execHdr12Oversized count frame s
  | .hdr10Events count frame => Sys2Proof.Machine.execHdr10Events count frame s
  | .hdr10EventsMax frame => Sys2Proof.Machine.execHdr10EventsMax frame s
  | .hdr10Command frame => Sys2Proof.Machine.execHdr10Command frame s
  | .hdr10Oversized count frame => Sys2Proof.Machine.execHdr10Oversized count frame s
  | .ev6 addrHi addr value delta => Sys2Proof.Machine.execEv6 addrHi addr value delta s
  | .ev8 chipHi chip addrHi addr value pad delta => Sys2Proof.Machine.execEv8 chipHi chip addrHi addr value pad delta s
  | .cmdCycleMode p0 p1 p2 => Sys2Proof.Machine.execCmdCycleMode p0 p1 p2 s
  | .cmdSetVoiceMask p0 p1 p2 => Sys2Proof.Machine.execCmdSetVoiceMask p0 p1 p2 s
  | .cmdSetFilter p0 p1 p2 => Sys2Proof.Machine.execCmdSetFilter p0 p1 p2 s
  | .cmdUnknown op p0 p1 p2 => Sys2Proof.Machine.execCmdUnknown op p0 p1 p2 s
  | .readyLine => Sys2Proof.Machine.execReadyLine s
  | .attach => Sys2Proof.Machine.execAttach s
  | .txReadyByte => Sys2Proof.Machine.execTxReadyByte s
  | .detach => Sys2Proof.Machine.execDetach s
  | .pull => Sys2Proof.Machine.execPull s
  | .bufferFull => Sys2Proof.Machine.execBufferFull s
  | .recentCapture b => Sys2Proof.Machine.execRecentCapture b s
  | .scanMagic => Sys2Proof.Machine.execScanMagic s
  | .readHeader => Sys2Proof.Machine.execReadHeader s
  | .readEvents => Sys2Proof.Machine.execReadEvents s
  | .readCommand => Sys2Proof.Machine.execReadCommand s
  | .frameStart count frame => Sys2Proof.Machine.execFrameStart count frame s
  | .parserReset => Sys2Proof.Machine.execParserReset s
  | .controlDispatch op p0 p1 p2 => Sys2Proof.Machine.execControlDispatch op p0 p1 p2 s
  | .frameDone => Sys2Proof.Machine.execFrameDone s
  | .driftUpdate frame => Sys2Proof.Machine.execDriftUpdate frame s
  | .push chipMask addr value delta => Sys2Proof.Machine.execPush chipMask addr value delta s
  | .dropOldest => Sys2Proof.Machine.execDropOldest s
  | .pop => Sys2Proof.Machine.execPop s
  | .peek => Sys2Proof.Machine.execPeek s
  | .depth => Sys2Proof.Machine.execDepth s
  | .queueReset => Sys2Proof.Machine.execQueueReset s
  | .consumeCycles run => Sys2Proof.Machine.execConsumeCycles run s
  | .flowUpdate => Sys2Proof.Machine.execFlowUpdate s
  | .renderSample => Sys2Proof.Machine.execRenderSample s
  | .queueEvent chipMask addr value delta => Sys2Proof.Machine.execQueueEvent chipMask addr value delta s
  | .applyEvent e => Sys2Proof.Machine.execApplyEvent e s
  | .cellWrite c addr value => Sys2Proof.Machine.execCellWrite c addr value s
  | .drainZero => Sys2Proof.Machine.execDrainZero s
  | .gain o => Sys2Proof.Machine.execGain o s
  | .cellInit c => Sys2Proof.Machine.execCellInit c s
  | .cellConstruct c => Sys2Proof.Machine.execCellConstruct c s
  | .engineReset => Sys2Proof.Machine.execEngineReset s
  | .resetQueueState => Sys2Proof.Machine.execResetQueueState s
  | .getQueueDepth => Sys2Proof.Machine.execGetQueueDepth s
  | .getDroppedEventCount => Sys2Proof.Machine.execGetDroppedEventCount s
  | .getMonitor => Sys2Proof.Machine.execGetMonitor s
  | .pumpAcquire => Sys2Proof.Machine.execPumpAcquire s
  | .pumpRender => Sys2Proof.Machine.execPumpRender s
  | .pumpCommit => Sys2Proof.Machine.execPumpCommit s
  | .takeFree => Sys2Proof.Machine.execTakeFree s
  | .giveFull buffer => Sys2Proof.Machine.execGiveFull buffer s
  | .sinkFree => Sys2Proof.Machine.execSinkFree s
  | .sidWrite c addr value => Sys2Proof.Machine.execSidWrite c addr value s
  | .sidClock c cycles => Sys2Proof.Machine.execSidClock c cycles s
  | .sidOutput c => Sys2Proof.Machine.execSidOutput c s
  | .sidSetChipModel c m => Sys2Proof.Machine.execSidSetChipModel c m s
  | .sidReset c => Sys2Proof.Machine.execSidReset c s
  | .sidEnableFilter c on => Sys2Proof.Machine.execSidEnableFilter c on s
  | .sidEnableExternalFilter c on => Sys2Proof.Machine.execSidEnableExternalFilter c on s
  | .sidSetSamplingParameters c clkHz mode fsHz => Sys2Proof.Machine.execSidSetSamplingParameters c clkHz mode fsHz s
  | .sidReadState c => Sys2Proof.Machine.execSidReadState c s

end Sys2Proof.Machine
end

