-- ==== Sys2Proof/Machine/Fetch.lean ====
section
/-!
DEFINITION. What a step of the machine executes: the turn that comes next (spec/00_scope.md R11, spec/60_exceptions.md R302,
spec/70_reset_and_hazards.md R360), the unit the PARSER agent fetches from `BUF` (R45, R98, R104), and the environment's own
steps (R106, R278).
-/

namespace Sys2Proof.Machine

/-- The format of the unit at the front of `BUF`: the parser state and the straps select it (R104). In `READ_HEADER` with the
magic gone the front is a window that misses (R205). -/
def parserFormat (s : State) : Format :=
  match s.parser.pstate with
  | .scanMagic => .window4
  | .readHeader =>
    if magicAtFront s then
      match s.cfg.hdr with
      | .hdr12 => .hdr12
      | .hdr10 => .hdr10
    else .window4
  | .readEvents =>
    match s.cfg.rcd with
    | .ev6 => .ev6
    | .ev8 => .ev8
  | .readCommand => .cmd

/-- The unit the PARSER agent executes next; none when no parser step is enabled (R200). -/
def fetchUnit (s : State) : Option Instr :=
  if parserEnabled s then
    match decode (parserFormat s) s.parser.buf with
    | .ok i => some i
    | .error _ => none
  else none

/-- The next turn: the head of the given schedule, and after its end a free choice (R11, R302, R360). -/
def nextTurn (s : State) : Choice × State :=
  match s.sched with
  | c :: cs => (c, { s with sched := cs })
  | [] => (Config.freeChoice s.draws, { s with draws := s.draws + 1 })

/-- The operation a turn executes; none for the environment's own steps and for a parser that waits. -/
def turnInstr (c : Choice) (s : State) : Option Instr :=
  match c with
  | .attach => some .attach
  | .detach => some .detach
  | .txReadyByte => some .txReadyByte
  | .readyLine => some .readyLine
  | .pull => some .pull
  | .parse => fetchUnit s
  | .pumpAcquire => some .pumpAcquire
  | .pumpRender => some .pumpRender
  | .pumpCommit => some .pumpCommit
  | .sinkFree => some .sinkFree
  | .hostSend _ => none
  | .hostTxReady _ => none
  | .hostFlushRx => none
  | .setMockOut _ _ => none
  | .queueEvent m a v d => some (.queueEvent m a v d)
  | .renderSample => some .renderSample
  | .getQueueDepth => some .getQueueDepth
  | .getDroppedEventCount => some .getDroppedEventCount
  | .getMonitor => some .getMonitor
  | .peek => some .peek
  | .depth => some .depth

/-- The settable output of the mock cell (R131). -/
def setMockOut (c : CellId) (out : Word32) (s : State) : State :=
  match c with
  | .a => { s with cellA.out := out }
  | .b => { s with cellB.out := out }

/-- The environment's steps (R106, R278): the host appends a byte to `rx` or changes the transmit-space level, a test sets a mock's
output, and the transport may drop what it holds after a detach or before READY (R349, U30: whether it does is not in the spec's
source); while a session streams a byte stays in `rx` until PULL (R300). Any other turn: nothing. -/
def environment (c : Choice) (s : State) : State :=
  match c with
  | .hostSend b => { s with usb.rx := s.usb.rx ++ [b] }
  | .hostTxReady r => { s with usb.txReady := r }
  | .hostFlushRx => if s.sess = .streaming then s else { s with usb.rx := [] }
  | .setMockOut k out => setMockOut k out s
  | .attach | .detach | .txReadyByte | .readyLine | .pull | .parse | .pumpAcquire | .pumpRender | .pumpCommit | .sinkFree
  | .queueEvent .. | .renderSample | .getQueueDepth | .getDroppedEventCount | .getMonitor | .peek | .depth => s

/-- Put the bytes of a unit where the next step fetches it: for a host unit the front of `BUF`, with the session streaming, the
parser in the state and the straps at the variant that select its format, a frame in progress where the unit is payload, and
the PARSER agent's turn next; for the READY line, a session awaiting its handshake and the SESSION agent's turn. -/
def placeUnit (fmt : Format) (bs : List Byte) (s : State) : State :=
  let parse (t : State) : State := { t with sess := .streaming, parser.buf := bs, sched := .parse :: t.sched }
  match fmt with
  | .window4 => parse { s with parser.pstate := .scanMagic }
  | .hdr12 => parse { s with cfg.hdr := .hdr12, parser.pstate := .readHeader }
  | .hdr10 => parse { s with cfg.hdr := .hdr10, parser.pstate := .readHeader }
  | .ev6 =>
    parse { s with cfg.rcd := .ev6, parser.pstate := .readEvents, parser.curCount := 1, parser.evLeft := 1,
                   parser.frameEvents := 0 }
  | .ev8 =>
    parse { s with cfg.rcd := .ev8, parser.pstate := .readEvents, parser.curCount := 1, parser.evLeft := 1,
                   parser.frameEvents := 0 }
  | .cmd => parse { s with parser.pstate := .readCommand, parser.curCount := 0xFFFF }
  | .ready => { s with sess := .awaitingHandshake, txIdx := 0, usb.txReady := true, sched := .readyLine :: s.sched }

end Sys2Proof.Machine
end

