-- ==== Sys2Proof/Machine/Step.lean ====
section
/-!
DEFINITION. One step of a run (spec/70_reset_and_hazards.md R360): the next turn, executed as one atomic operation; and where
a step finds the unit it is to execute.
-/

namespace Sys2Proof.Machine

/-- One step. A configuration that breaks a boot requirement is refused (R336). -/
def step (s : State) : Host.Outcome State Fault Refusal :=
  if s.cfg.valid then
    match turnInstr (nextTurn s).1 (nextTurn s).2 with
    | some i => exec i (nextTurn s).2
    | none => .next (environment (nextTurn s).1 (nextTurn s).2)
  else .refused .configuration

/-- `s` with the unit of the table word placed where the next step executes it (assumption log 7). -/
def State.withFetchWord (s : State) (nbits w : Nat) : State :=
  match tableFormat nbits w with
  | some fmt => placeUnit fmt (leBytes fmt.len w) s
  | none => s

end Sys2Proof.Machine
end

