-- ==== Sys2Proof/Machine/PowerOn.lean ====
section
/-!
DEFINITION. Power-on reset as the sequence the spec gives (spec/70_reset_and_hazards.md R331), for every configuration; what it
leaves is written out as `State.afterPowerOn` in Machine/State.lean, and `State.reset` is that for the default straps.
-/

namespace Sys2Proof.Machine

/-- `n` times `PUMP_RENDER`. -/
def pumpRenders : Nat → State → State
  | 0, s => s
  | n + 1, s => pumpRenders n (pumpRender s)

/-- `PUMP_ACQUIRE`, `FRAMES` × `PUMP_RENDER`, `PUMP_COMMIT` (R170). -/
def pumpBuffer (s : State) : State := pumpCommit (pumpRenders s.cfg.frames (pumpAcquire s))

/-- The power-on reset sequence (R331), one atomic step; a configuration that breaks R336 is refused. -/
def powerOn (cfg : Config) : Outcome :=
  if cfg.valid then
    let s := cellConstruct .b (cellConstruct .a (State.powerOnValues cfg))
    .next (pumpBuffer (pumpBuffer (parserReset (engineReset s))))
  else .refused .configuration

end Sys2Proof.Machine
end

