-- ==== Sys2Proof/Safety.lean ====
section
/-!
DEFINITION. What a good state of a run is, in the terms the statements use: the invariants of spec/10_state.md R48 and of
spec/46_flow_control.md R249, of the pool (R41, R64, R171), and of eager parsing (R212, R249). Nothing stops a run of a valid
configuration (R290), so safety here is that these hold at every operation boundary.
-/

namespace Sys2Proof.Machine

/-- R48 items 1 and 2, R28, R258: the ring's registers agree, and every slot in the live range has been written. -/
structure QueueOk (s : State) : Prop where
  count_le : s.queue.count ≤ s.cfg.queueCap
  head_lt : s.queue.head < s.cfg.queueCap
  tail_eq : s.queue.tail = (s.queue.head + s.queue.count) % s.cfg.queueCap
  peak_le : s.tel.queuePeak ≤ s.cfg.queueCap
  live : ∀ j, j < s.queue.count → (memRead s.queue.ring ((s.queue.head + j) % s.cfg.queueCap)).isSome

/-- R48 items 3, 4, 5 and 6 (the unconditional part), R26. -/
structure ParserOk (s : State) : Prop where
  buf_le : s.parser.buf.length ≤ s.cfg.bufSize
  events : s.parser.pstate = .readEvents →
    1 ≤ s.parser.evLeft ∧ s.parser.evLeft ≤ maxCount ∧
    s.parser.evLeft + s.parser.frameEvents = s.parser.curCount.toNat ∧ s.parser.curCount.toNat ≤ maxCount
  command : s.parser.pstate = .readCommand → s.parser.curCount.toNat = cmdSentinel
  header : s.parser.pstate = .readHeader → 4 ≤ s.parser.buf.length

/-- R48 item 9, and R23: the line is not finished while the handshake is awaited. -/
structure SessionOk (s : State) : Prop where
  idle : s.sess ≠ .streaming → s.parser.buf = [] ∧ s.parser.pstate = .scanMagic
  handshake : s.sess = .awaitingHandshake → s.txIdx < 14

/-- R48 items 7 and 8, R249 (first sentence), R39. -/
structure ClockOk (s : State) : Prop where
  acc_lt : s.engine.acc < s.cfg.fsHz
  flow : s.paused = false → s.queue.count < s.cfg.highWm
  pump_idle : s.pump.active = false → s.pump.idx = 0
  pump_idx : s.pump.idx ≤ s.cfg.frames
  recent_wr : s.recent.wr < s.cfg.recentSize

/-- The memories keep their canonical form and stay inside their address ranges (R60). -/
structure MemoryOk (s : State) : Prop where
  ring_wf : Memory.wf s.queue.ring
  recent_wf : Memory.wf s.recent.bytes
  audio_wf : Memory.wf s.pool.audio
  ring_lt : ∀ p ∈ s.queue.ring, p.1 < s.cfg.queueCap
  recent_lt : ∀ p ∈ s.recent.bytes, p.1 < s.cfg.recentSize

/-- The state invariant of a run. -/
structure Inv (s : State) : Prop where
  valid : s.cfg.valid = true
  queue : QueueOk s
  parser : ParserOk s
  session : SessionOk s
  clock : ClockOk s
  memory : MemoryOk s

/-- The pool's discipline (R41, R64, R165, R171): the only TAKEN buffer is the pump's, the FULL buffers are those of the
sink's queue, each once, and a FULL buffer holds `FRAMES` written frames. -/
structure PoolOk (s : State) : Prop where
  length : s.pool.buffers.length = s.cfg.nbuf
  taken : ∀ b, bufferTaken s b = true ↔ (s.pump.active = true ∧ b = s.pump.buf)
  full : ∀ b, b ∈ s.pool.full ↔ (s.pool.buffers[b]?).any (fun x => x.cond = .full) = true
  nodup : s.pool.full.Nodup
  counted : ∀ b ∈ s.pool.full, (s.pool.buffers[b]?).map Buffer.sampleCount = some s.cfg.frames
  written : ∀ b ∈ s.pool.full, ∀ j, j < s.cfg.frames → (memRead s.pool.audio (audioAddr s.cfg b j)).isSome
  filling : s.pump.active = true → ∀ j, j < s.pump.idx → (memRead s.pool.audio (audioAddr s.cfg s.pump.buf j)).isSome

/-- Under `EAGER_PARSE`, with the parser the only producer (R48 item 6, R202, R212, R249): the buffer never holds more than the
unit the parser waits for, a complete record is there only with room below the watermark, and the magic stays at the front. -/
structure EagerOk (s : State) : Prop where
  scan : s.parser.pstate = .scanMagic → s.parser.buf.length < s.cfg.hdr.len
  header : s.parser.pstate = .readHeader → s.parser.buf.length ≤ s.cfg.hdr.len ∧ magicAtFront s = true
  events : s.parser.pstate = .readEvents → s.parser.buf.length ≤ s.cfg.rcd.len
  command : s.parser.pstate = .readCommand → s.parser.buf.length ≤ cmdLen
  room : s.parser.pstate = .readEvents → s.parser.buf.length = s.cfg.rcd.len → s.queue.count < s.cfg.highWm
  below : s.queue.count ≤ s.cfg.highWm

/-- What is left of a state when telemetry is masked: the session telemetry, `dropped_count`, the recent-bytes ring (R255), and
the port's answer, which may show them. -/
def maskTelemetry (s : State) : State :=
  { s with tel := {}, queue.droppedCount := 0, recent := {}, ret := .none }

/-- An outcome with the telemetry of its state masked. -/
def maskOutcome (o : Outcome) : Outcome :=
  match o with
  | .next t => .next (maskTelemetry t)
  | .fault r => .fault r
  | .refused r => .refused r

/-- The cycles a list of cell calls clocks. -/
def clockedCycles : List CellCall → Nat
  | [] => 0
  | .clock n :: ks => n + clockedCycles ks
  | _ :: ks => clockedCycles ks

/-- The `clock` arguments in a list of cell calls, in order. -/
def clockRuns : List CellCall → List Nat
  | [] => []
  | .clock n :: ks => n :: clockRuns ks
  | _ :: ks => clockRuns ks

/-- The sum of the deltas of a list of events (R189: the queue's "semantic time"). -/
def totalDelta : List Event → Nat
  | [] => 0
  | e :: es => e.delta.toNat + totalDelta es

/-- A list of held events with the delta `d` absorbed by its first event, modulo 2^32 (R182, R187). -/
def absorb (d : Word32) : List Event → List Event
  | [] => []
  | e :: es => { e with delta := e.delta + d } :: es

/-- The writes a list of applied events makes on one cell, in order, under one policy (R142, R143). -/
def eventWrites (cfg : Config) (e : Engine) (c : CellId) (es : List Event) : List CellCall :=
  es.filterMap fun x =>
    if selects x.chipMask c then (gatedWrite cfg e.voiceMask e.filterEn x.addr x.value).map (CellCall.write x.addr) else none

/-- The `clock` call that lets `n` cycles pass; none where no cycle passes, since the pipeline never calls `clock(0)` (R122). -/
def waitCalls (n : Nat) : List CellCall := if n = 0 then [] else [.clock n]

/-- What playing a list of events calls on one cell: for each event in turn its delta is waited and then its write made
(R138, R139, R142, R143). -/
def playCalls (cfg : Config) (e : Engine) (c : CellId) : List Event → List CellCall
  | [] => []
  | x :: xs => waitCalls x.delta.toNat ++ eventWrites cfg e c [x] ++ playCalls cfg e c xs

/-- A list of held events whose first one has `n` cycles less to wait (R139, R192). -/
def lowerFirst (n : Nat) : List Event → List Event
  | [] => []
  | e :: es => { e with delta := BitVec.ofNat 32 (e.delta.toNat - n) } :: es

/-- From `s` to `t` the events `due` have been played and then `left` more cycles waited, `ka` and `kb` being the calls made
on the two cells: `due` were the oldest events of `s`, `rest` are held on with the first of them lowered by `left`, only the
slots that held `due` and the first of `rest` may be written, and `paused` follows the falling depth (R139, R144, R183, R246). -/
structure Played (s t : State) (due rest : List Event) (left : Nat) (ka kb : List CellCall) : Prop where
  held : heldEvents s = due ++ rest
  remains : heldEvents t = lowerFirst left rest
  callsA : ka = playCalls s.cfg s.engine .a due ++ waitCalls left
  callsB : kb = playCalls s.cfg s.engine .b due ++ waitCalls left
  head : t.queue.head = (s.queue.head + due.length) % s.cfg.queueCap
  count : t.queue.count + due.length = s.queue.count
  tail : t.queue.tail = s.queue.tail
  dropped : t.queue.droppedCount = s.queue.droppedCount
  ring : ∀ k, (∀ j, j < s.queue.count → j ≤ due.length → k ≠ (s.queue.head + j) % s.cfg.queueCap) →
    memRead t.queue.ring k = memRead s.queue.ring k
  kept : due = [] → t.paused = s.paused
  opened : s.cfg.lowWm < s.cfg.highWm → s.paused = false → s.queue.count < s.cfg.highWm → t.paused = false
  closed : s.cfg.lowWm < s.cfg.highWm → s.paused = true → due ≠ [] → (t.paused = false ↔ t.queue.count ≤ s.cfg.lowWm)

/-- The parser operation of a parser state (R204 to R207). -/
def parserOp : ParserState → Instr
  | .scanMagic => .scanMagic
  | .readHeader => .readHeader
  | .readEvents => .readEvents
  | .readCommand => .readCommand

/-- The state an operation leaves, where it leaves one. -/
def resultOf (o : Outcome) (s : State) : State :=
  match o with
  | .next t => t
  | .fault _ => s
  | .refused _ => s

/-- `n` PARSER steps. -/
def parserRun : Nat → State → State
  | 0, s => s
  | n + 1, s => parserRun n (resultOf (exec (parserOp s.parser.pstate) s) s)

/-- `n` calls of `render_sample` on the test port. -/
def renderRun : Nat → State → State
  | 0, s => s
  | n + 1, s => renderRun n (resultOf (exec .renderSample s) s)

/-- `n` executions of PUMP_RENDER. -/
def pumpRun : Nat → State → State
  | 0, s => s
  | n + 1, s => pumpRun n (resultOf (exec .pumpRender s) s)

/-- A counter of u32 after one more and after `d` more, as an integer (R10: `satinc32`, `satadd32`). -/
def capped (n : Nat) : Nat := min n (2 ^ 32 - 1)

end Sys2Proof.Machine
end

