-- ==== Sys2Proof/Certificates/Slice0/Obligations.lean ====
section
/-!
DEFINITION. What the provers are asked to show of the model: the encodings, the step, what each operation does and leaves
alone, the laws of the queue and the scheduler, and the invariants of every step. A frame is written
`t = { s with <parts> := t.<parts> }`: every part of the state that is not named is unchanged.
-/

open Sys2Proof Sys2Proof.Machine

/-! ## Encodings -/

/-- Decoding the bytes of a well-formed unit, whatever follows them, gives the unit back with every operand (R86 to R97). -/
def Obligations.DecodeOfEncode : Prop :=
  ∀ (i : Instr) (fmt : Format) (rest : List Byte),
    i.wellFormed = true → i.format = some fmt → decode fmt (i.encode ++ rest) = .ok i

/-- A decoded unit is well formed, has the format asked for, and its encoding is the bytes it was read from: decoding drops no
bit, the ignored ones included (R101, R104). -/
def Obligations.EncodeOfDecode : Prop :=
  ∀ (fmt : Format) (bs : List Byte) (i : Instr),
    decode fmt bs = .ok i → i.wellFormed = true ∧ i.format = some fmt ∧ i.encode = bs.take fmt.len

/-- Where enough bytes are there, every bit pattern of a format from the host is a unit (for a header: every one whose magic
matches), and where bytes are missing or a header has no magic the decoder says so by name (R99, R104, R200). -/
def Obligations.EveryPatternIsAUnit : Prop :=
  ∀ (fmt : Format) (bs : List Byte), fmt ≠ .ready →
    (bs.length < fmt.len → decode fmt bs = .error (.tooShort fmt)) ∧
    (fmt.len ≤ bs.length → fmt ≠ .hdr12 → fmt ≠ .hdr10 → ∃ i, decode fmt bs = .ok i) ∧
    (fmt.len ≤ bs.length → (fmt = .hdr12 ∨ fmt = .hdr10) → bs.take 4 = magic → ∃ i, decode fmt bs = .ok i) ∧
    (fmt.len ≤ bs.length → (fmt = .hdr12 ∨ fmt = .hdr10) → bs.take 4 ≠ magic → decode fmt bs = .error .noMagic)

/-- A few words written out from the encodings decode to what they stand for (95_test_vectors.md V-D1, V-D3 to V-D5). -/
def Obligations.ListedWordsDecode : Prop :=
  decode .hdr12 [0x53, 0x49, 0x44, 0x46, 0x00, 0x20, 0x00, 0x00, 0x09, 0x00, 0x00, 0x00] = .ok (.hdr12EventsMax 9) ∧
  decode .hdr12 [0x53, 0x49, 0x44, 0x46, 0xFF, 0xFF, 0x00, 0x80, 0x09, 0x00, 0x00, 0x00] = .ok (.hdr12Oversized 0x8000FFFF 9) ∧
  decode .hdr10 [0x53, 0x49, 0x44, 0x46, 0xFF, 0xFF, 0x09, 0x00, 0x00, 0x00] = .ok (.hdr10Command 9) ∧
  decode .ev6 [0x3F, 0x12, 0x04, 0x03, 0x02, 0x01] = .ok (.ev6 1 0x1F 0x12 0x01020304) ∧
  decode .ev8 [0xFE, 0xFF, 0x12, 0x55, 0xFF, 0xFF, 0xFF, 0xFF] = .ok (.ev8 0x3F 2 7 0x1F 0x12 0x55 0xFFFFFFFF) ∧
  decode .cmd [0x02, 0x05, 0xFF, 0xFF] = .ok (.cmdSetVoiceMask 0x05 0xFF 0xFF)

/-- The value of a little-endian u32 (R10). -/
def leValue (b0 b1 b2 b3 : Byte) : Nat := b0.toNat + 2 ^ 8 * b1.toNat + 2 ^ 16 * b2.toNat + 2 ^ 24 * b3.toNat

/-- `count` and `frame` of a header: `count` is the u32 at bytes 4..7 of a 12-byte header and the u16 at bytes 4..5 of a
10-byte one, classified as command, events or oversized; `frame` is the last u32 (R89, R90). -/
def Obligations.HeaderFieldsAndClasses : Prop :=
  ∀ (c0 c1 c2 c3 f0 f1 f2 f3 : Byte),
    (∃ i, decode .hdr12 (magic ++ [c0, c1, c2, c3, f0, f1, f2, f3]) = .ok i ∧
      (leValue c0 c1 c2 c3 = 0xFFFF → i = .hdr12Command (BitVec.ofNat 32 (leValue f0 f1 f2 f3))) ∧
      (leValue c0 c1 c2 c3 < 8192 →
        i = .hdr12Events (BitVec.ofNat 13 (leValue c0 c1 c2 c3)) (BitVec.ofNat 32 (leValue f0 f1 f2 f3))) ∧
      (leValue c0 c1 c2 c3 = 8192 → i = .hdr12EventsMax (BitVec.ofNat 32 (leValue f0 f1 f2 f3))) ∧
      (leValue c0 c1 c2 c3 ≠ 0xFFFF → 8192 < leValue c0 c1 c2 c3 →
        i = .hdr12Oversized (BitVec.ofNat 32 (leValue c0 c1 c2 c3)) (BitVec.ofNat 32 (leValue f0 f1 f2 f3)))) ∧
    (∃ i, decode .hdr10 (magic ++ [c0, c1, f0, f1, f2, f3]) = .ok i ∧
      (c0.toNat + 256 * c1.toNat = 0xFFFF → i = .hdr10Command (BitVec.ofNat 32 (leValue f0 f1 f2 f3))) ∧
      (c0.toNat + 256 * c1.toNat < 8192 →
        i = .hdr10Events (BitVec.ofNat 13 (c0.toNat + 256 * c1.toNat)) (BitVec.ofNat 32 (leValue f0 f1 f2 f3))) ∧
      (c0.toNat + 256 * c1.toNat = 8192 → i = .hdr10EventsMax (BitVec.ofNat 32 (leValue f0 f1 f2 f3))) ∧
      (c0.toNat + 256 * c1.toNat ≠ 0xFFFF → 8192 < c0.toNat + 256 * c1.toNat →
        i = .hdr10Oversized (BitVec.ofNat 16 (c0.toNat + 256 * c1.toNat)) (BitVec.ofNat 32 (leValue f0 f1 f2 f3))))

/-- Operand assembly of the two records, field by field (R91, R92, R94). -/
def Obligations.RecordOperandsAssemble : Prop :=
  ∀ (b0 b1 b2 b3 b4 b5 b6 b7 : Byte),
    decode .ev6 [b0, b1, b2, b3, b4, b5] =
      .ok (.ev6 (BitVec.ofNat 3 (b0.toNat / 32)) (BitVec.ofNat 5 (b0.toNat % 32)) b1
        (BitVec.ofNat 32 (leValue b2 b3 b4 b5))) ∧
    decode .ev8 [b0, b1, b2, b3, b4, b5, b6, b7] =
      .ok (.ev8 (BitVec.ofNat 6 (b0.toNat / 4)) (BitVec.ofNat 2 (b0.toNat % 4)) (BitVec.ofNat 3 (b1.toNat / 32))
        (BitVec.ofNat 5 (b1.toNat % 32)) b2 b3 (BitVec.ofNat 32 (leValue b4 b5 b6 b7)))

/-! ## The step -/

/-- When the next turn is the PARSER agent's and the bytes at the front of `BUF` decode, in the format that parser state and
straps select, to a unit, the step is that unit's meaning. The next turn is the head of the given schedule; after its end a step
is the step whose given turn is the next free choice (R104, R200, R302). The schedule held in the state, its free choices and
their counter `draws` are the model's form of what R302 leaves open (assumption log 6); that READ_HEADER with the magic gone
takes the format of a window is its reading of R205 (log 15). -/
def Obligations.StepRunsDecodedUnit : Prop :=
  ∀ (s : State) (i : Instr), s.cfg.valid = true → s.sess = .streaming →
    parserNeed s.cfg s.parser.pstate ≤ s.parser.buf.length → decode (parserFormat s) s.parser.buf = .ok i →
    (∀ cs, s.sched = .parse :: cs → step s = exec i { s with sched := cs }) ∧
    (s.sched = [] → step s = step { s with sched := [Config.freeChoice s.draws], draws := s.draws + 1 })

/-- Every other turn: an operation's turn runs the operation, a waiting parser changes nothing, and the environment's steps
append a host byte, set the transmit-space level, set a mock's output, or drop what the transport holds, which while a session
streams it does not: a byte stays in `rx` until PULL (R106, R200, R278, R300). The model's own: the waiting parser's turn as a
step without effect (assumption log 1), the schedule (log 6), the form of the environment's turns (log 10), the turn `readyLine`
(log 11), the settable mock (log 19), `peek` and `depth` as turns of the test port (log 23). -/
def Obligations.StepRunsOtherTurns : Prop :=
  ∀ (s : State) (cs : List Choice), s.cfg.valid = true →
    (∀ p ∈ ([(.attach, .attach), (.detach, .detach), (.txReadyByte, .txReadyByte), (.readyLine, .readyLine), (.pull, .pull),
        (.pumpAcquire, .pumpAcquire), (.pumpRender, .pumpRender), (.pumpCommit, .pumpCommit), (.sinkFree, .sinkFree),
        (.renderSample, .renderSample), (.getQueueDepth, .getQueueDepth), (.getDroppedEventCount, .getDroppedEventCount),
        (.getMonitor, .getMonitor), (.peek, .peek), (.depth, .depth)] : List (Choice × Instr)),
      s.sched = p.1 :: cs → step s = exec p.2 { s with sched := cs }) ∧
    (∀ m a v d, s.sched = .queueEvent m a v d :: cs → step s = exec (.queueEvent m a v d) { s with sched := cs }) ∧
    (s.sched = .parse :: cs → parserEnabled s = false → step s = .next { s with sched := cs }) ∧
    (∀ b, s.sched = .hostSend b :: cs → step s = .next { s with sched := cs, usb := { s.usb with rx := s.usb.rx ++ [b] } }) ∧
    (∀ r, s.sched = .hostTxReady r :: cs → step s = .next { s with sched := cs, usb := { s.usb with txReady := r } }) ∧
    (s.sched = .hostFlushRx :: cs →
      (s.sess = .streaming → step s = .next { s with sched := cs }) ∧
      (s.sess ≠ .streaming → step s = .next { s with sched := cs, usb := { s.usb with rx := [] } })) ∧
    (∀ o, s.sched = .setMockOut .a o :: cs → step s = .next { s with sched := cs, cellA := { s.cellA with out := o } }) ∧
    (∀ o, s.sched = .setMockOut .b o :: cs → step s = .next { s with sched := cs, cellB := { s.cellB with out := o } })

/-- The four parser operations, written from the pseudocode over the bytes of `BUF`, do exactly what fetching, decoding and
executing a unit does (R204 to R207 against R89, R94, R104). Where no unit is fetched the operation is a step without effect, by
assumption log 1; the magic gone in READ_HEADER is fetched and executed as SCAN.MISS, by log 15. -/
def Obligations.ParserStepsAgreeWithUnits : Prop :=
  ∀ s : State, exec (parserOp s.parser.pstate) s =
    match fetchUnit s with
    | some i => exec i s
    | none => .next s

/-- A configuration that breaks a boot requirement is refused, by every step and by power-on reset; each requirement on its own is
enough (R336). The last requirement, that no row of a mute table is keyed by no voice, is the form that assumption log 13 gives
R8's constraint. -/
def Obligations.BadConfigurationRefused : Prop :=
  ∀ c : Config,
    (c.queueCap < 2 ∨ c.bufSize < 12 ∨ c.recentSize = 0 ∨ c.frames = 0 ∨ c.nbuf < 2 ∨ c.clkHz = 0 ∨ 2 ^ 32 ≤ c.clkHz ∨
      c.fsHz = 0 ∨ 2 ^ 32 ≤ c.fsHz ∨ c.gainDen = 0 ∨ c.highWm ≤ c.lowWm ∨ c.queueCap < c.highWm ∨
      (∃ rows, c.muteXform = .table rows ∧ ∃ r ∈ rows, r.voices = 0)) →
    powerOn c = .refused .configuration ∧ ∀ s : State, s.cfg = c → step s = .refused .configuration

/-! ## Wire units -/

/-- SCAN.MATCH and SCAN.MISS with 4 bytes buffered: a match consumes nothing, a miss discards and counts one byte and reports it
(R204, R291). In READ_HEADER, where R205's re-check of the magic makes the same discard, the model executes it as SCAN.MISS with the
operands it was decoded with, which its meaning does not compare with `BUF` (assumption log 15). -/
def Obligations.ScanUnitsComplete : Prop :=
  ∀ (s : State) (b0 b1 b2 b3 : Byte), s.sess = .streaming →
    (s.parser.pstate = .scanMagic → 4 ≤ s.parser.buf.length →
      exec .scanMatch s = .next { s with parser := { s.parser with pstate := .readHeader } } ∧
      ∃ t, exec (.scanMiss b0 b1 b2 b3) s = .next t ∧ t.parser = { s.parser with buf := s.parser.buf.drop 1 } ∧
        t.tel = { s.tel with resyncCount := t.tel.resyncCount } ∧
        t.tel.resyncCount.toNat = capped (s.tel.resyncCount.toNat + 1) ∧
        t.status = s.status ++ [.error (.magicLost b0)] ∧
        t = { s with parser := t.parser, tel := t.tel, status := t.status }) ∧
    (s.parser.pstate = .readHeader → s.cfg.hdr.len ≤ s.parser.buf.length →
      ∃ t, exec (.scanMiss b0 b1 b2 b3) s = .next t ∧
        t.parser = { s.parser with pstate := .scanMagic, buf := s.parser.buf.drop 1 } ∧
        t.tel = { s.tel with resyncCount := t.tel.resyncCount } ∧
        t.tel.resyncCount.toNat = capped (s.tel.resyncCount.toNat + 1) ∧
        t.status = s.status ++ [.error (.magicLost b0)] ∧
        t = { s with parser := t.parser, tel := t.tel, status := t.status })

/-- An event header in READ_HEADER, of the strapped variant: the header is consumed and the frame begins; with `count > 0` the
parser goes to READ_EVENTS with that many records to read, with `count = 0` the frame is done at once (R205, R209). -/
def Obligations.EventHeadersComplete : Prop :=
  ∀ (s : State) (i : Instr) (v : HdrVariant) (n : Nat) (f : Word32),
    ((v = .hdr12 ∧ ((∃ c, i = .hdr12Events c f ∧ n = c.toNat) ∨ (i = .hdr12EventsMax f ∧ n = 8192))) ∨
     (v = .hdr10 ∧ ((∃ c, i = .hdr10Events c f ∧ n = c.toNat) ∨ (i = .hdr10EventsMax f ∧ n = 8192)))) →
    s.sess = .streaming → s.parser.pstate = .readHeader → s.cfg.hdr = v → v.len ≤ s.parser.buf.length →
    ∃ u : State,
      u = { s with
        parser :=
          { pstate := .readHeader, buf := s.parser.buf.drop v.len, curCount := BitVec.ofNat 32 n, curFrame := f,
            evLeft := 0, frameEvents := 0, frameBytes := BitVec.ofNat 32 v.len }
        status := s.status ++ [.frameStart f] } ∧
      (0 < n → exec i s = .next { u with parser := { u.parser with pstate := .readEvents, evLeft := n } }) ∧
      (n = 0 → ∃ w, exec .frameDone u = .next w ∧
        exec i s = .next { w with parser := { w.parser with pstate := .scanMagic } })

/-- A command header begins a frame and sends the parser to READ_COMMAND; an oversized one loses one byte, is counted and
reported with its count, and the parser scans on (R205, R292). -/
def Obligations.OtherHeadersComplete : Prop :=
  ∀ (s : State) (f : Word32), s.sess = .streaming → s.parser.pstate = .readHeader →
    s.cfg.hdr.len ≤ s.parser.buf.length →
    (∀ i, (s.cfg.hdr = .hdr12 ∧ i = .hdr12Command f) ∨ (s.cfg.hdr = .hdr10 ∧ i = .hdr10Command f) →
      exec i s = .next { s with
        parser :=
          { pstate := .readCommand, buf := s.parser.buf.drop s.cfg.hdr.len, curCount := 0xFFFF, curFrame := f,
            evLeft := 0, frameEvents := 0, frameBytes := BitVec.ofNat 32 s.cfg.hdr.len }
        status := s.status ++ [.frameStart f] }) ∧
    (∀ i n, (s.cfg.hdr = .hdr12 ∧ ∃ c, i = .hdr12Oversized c f ∧ n = c.toNat) ∨
        (s.cfg.hdr = .hdr10 ∧ ∃ c, i = .hdr10Oversized c f ∧ n = c.toNat) →
      ∃ t, exec i s = .next t ∧
        t.parser = { s.parser with pstate := .scanMagic, buf := s.parser.buf.drop 1 } ∧
        t.tel = { s.tel with resyncCount := t.tel.resyncCount } ∧
        t.tel.resyncCount.toNat = capped (s.tel.resyncCount.toNat + 1) ∧
        t.status = s.status ++ [.error (.oversizedCount (BitVec.ofNat 32 n))] ∧
        t = { s with parser := t.parser, tel := t.tel, status := t.status })

/-- An event record in READ_EVENTS, of the strapped variant: its bytes go, its event is pushed (an EV6 record with mask 0), the
frame registers advance, and the last record of a frame completes it; ignored bits change nothing (R94, R101, R206). -/
def Obligations.EventRecordsComplete : Prop :=
  ∀ (s : State) (i : Instr) (v : RecVariant) (m : BitVec 2) (a : SidAddr) (x : Byte) (d : Word32),
    ((v = .ev6 ∧ m = 0 ∧ ∃ hi, i = .ev6 hi a x d) ∨ (v = .ev8 ∧ ∃ chHi hi pad, i = .ev8 chHi m hi a x pad d)) →
    s.sess = .streaming → s.parser.pstate = .readEvents → s.cfg.rcd = v → v.len ≤ s.parser.buf.length →
    1 ≤ s.parser.evLeft →
    ∃ u w : State,
      exec (.push m.toNat a.toNat x.toNat d.toNat)
        { s with parser := { s.parser with buf := s.parser.buf.drop v.len } } = .next u ∧
      w = { u with
        ret := s.ret
        parser :=
          { s.parser with
            buf := s.parser.buf.drop v.len, evLeft := s.parser.evLeft - 1, frameEvents := s.parser.frameEvents + 1,
            frameBytes := s.parser.frameBytes + BitVec.ofNat 32 v.len } } ∧
      (1 < s.parser.evLeft → exec i s = .next w) ∧
      (s.parser.evLeft = 1 → ∃ z, exec .frameDone w = .next z ∧
        exec i s = .next { z with parser := { z.parser with pstate := .scanMagic } })

/-- A command record in READ_COMMAND: its four bytes go, the command is dispatched at once, and the frame is completed; an
unknown opcode does nothing else (R207, R230, R234). -/
def Obligations.CommandRecordsComplete : Prop :=
  ∀ (s : State) (op p0 p1 p2 : Byte) (i : Instr),
    ((op = 0x01 ∧ i = .cmdCycleMode p0 p1 p2) ∨ (op = 0x02 ∧ i = .cmdSetVoiceMask p0 p1 p2) ∨
      (op = 0x03 ∧ i = .cmdSetFilter p0 p1 p2) ∨
      (op ≠ 0x01 ∧ op ≠ 0x02 ∧ op ≠ 0x03 ∧ i = .cmdUnknown op p0 p1 p2)) →
    s.sess = .streaming → s.parser.pstate = .readCommand → 4 ≤ s.parser.buf.length →
    ∃ u z : State,
      exec (.controlDispatch op p0 p1 p2) { s with parser := { s.parser with buf := s.parser.buf.drop 4 } } = .next u ∧
      (op ≠ 0x01 → op ≠ 0x02 → op ≠ 0x03 → u = { s with parser := { s.parser with buf := s.parser.buf.drop 4 } }) ∧
      exec .frameDone { u with parser := { u.parser with frameBytes := u.parser.frameBytes + 4 } } = .next z ∧
      exec i s = .next { z with parser := { z.parser with pstate := .scanMagic } }

/-- Where its guard is false an operation that moves bytes has no effect. A unit from the host: outside a streaming session, with
too few bytes for the parser's state, in another parser state than its own, or of the variant the straps do not select; a parser
operation in the same cases; READY_LINE outside the handshake or with no transmit space; PULL outside a streaming session, while
paused, with `rx` empty, or under eager parsing while a parser step is enabled (R200, R201, R204 to R207, R211, R248, R272, R274;
that an attempt is a step without effect is the model's reading, assumption log 1; that SCAN.MISS has an effect in READ_HEADER too,
log 15). -/
def Obligations.DisabledOperationsWait : Prop :=
  ∀ s : State,
    (∀ (i : Instr) (fmt : Format), i.format = some fmt → fmt ≠ .ready →
      (s.sess ≠ .streaming ∨ s.parser.buf.length < parserNeed s.cfg s.parser.pstate) → exec i s = .next s) ∧
    (s.parser.pstate ≠ .scanMagic → exec .scanMatch s = .next s) ∧
    (∀ b0 b1 b2 b3 : Byte, s.parser.pstate ≠ .scanMagic → s.parser.pstate ≠ .readHeader →
      exec (.scanMiss b0 b1 b2 b3) s = .next s) ∧
    (∀ i : Instr, i.format = some .hdr12 → (s.parser.pstate ≠ .readHeader ∨ s.cfg.hdr ≠ .hdr12) → exec i s = .next s) ∧
    (∀ i : Instr, i.format = some .hdr10 → (s.parser.pstate ≠ .readHeader ∨ s.cfg.hdr ≠ .hdr10) → exec i s = .next s) ∧
    (∀ i : Instr, i.format = some .ev6 → (s.parser.pstate ≠ .readEvents ∨ s.cfg.rcd ≠ .ev6) → exec i s = .next s) ∧
    (∀ i : Instr, i.format = some .ev8 → (s.parser.pstate ≠ .readEvents ∨ s.cfg.rcd ≠ .ev8) → exec i s = .next s) ∧
    (∀ i : Instr, i.format = some .cmd → s.parser.pstate ≠ .readCommand → exec i s = .next s) ∧
    (∀ p : ParserState, (s.sess ≠ .streaming ∨ s.parser.pstate ≠ p ∨ s.parser.buf.length < parserNeed s.cfg p) →
      exec (parserOp p) s = .next s) ∧
    ((s.sess ≠ .awaitingHandshake ∨ s.usb.txReady = false) → exec .readyLine s = .next s) ∧
    ((s.sess ≠ .streaming ∨ s.paused = true ∨ s.usb.rx = [] ∨ (s.cfg.eagerParse = true ∧ parserEnabled s = true)) →
      exec .pull s = .next s)

/-! ## Parser, control and telemetry operations -/

/-- An enabled parser operation completes and makes progress: it shortens the buffer (from its front), or keeps it and changes
`pstate`; it touches no part of the state outside the parser, the queue, the flow flag (R246), the policy, the cells, the session
telemetry (R256) and the status (R215). -/
def Obligations.ParserStepsMakeProgress : Prop :=
  ∀ (s : State) (p : ParserState), s.sess = .streaming → s.parser.pstate = p →
    parserNeed s.cfg p ≤ s.parser.buf.length →
    ∃ t, exec (parserOp p) s = .next t ∧
      ((∃ n, 1 ≤ n ∧ n ≤ s.parser.buf.length ∧ t.parser.buf = s.parser.buf.drop n) ∨
        (t.parser.buf = s.parser.buf ∧ t.parser.pstate ≠ p)) ∧
      t = { s with
        parser := t.parser, queue := t.queue, engine := t.engine, paused := t.paused, tel := t.tel, cellA := t.cellA,
        cellB := t.cellB, status := t.status }

/-- From any state the parser reaches a state with no enabled step, after at most two steps a byte and one more (R215). -/
def Obligations.ParserReachesQuiescence : Prop :=
  ∀ s : State, ∃ n, n ≤ 2 * s.parser.buf.length + 1 ∧ parserEnabled (parserRun n s) = false

/-- `frame_start` latches the header's fields and clears the frame's counts; `parser_reset` abandons buffer and frame and touches
nothing else (R209, R210). -/
def Obligations.FrameStartAndParserReset : Prop :=
  ∀ (s : State) (c f : Word32),
    (∃ t, exec (.frameStart c f) s = .next t ∧
      t.parser.pstate = s.parser.pstate ∧ t.parser.buf = s.parser.buf ∧ t.parser.curCount = c ∧ t.parser.curFrame = f ∧
      t.parser.frameEvents = 0 ∧ t.parser.evLeft = 0 ∧ t.parser.frameBytes.toNat = s.cfg.hdr.len ∧
      t.status = s.status ++ [.frameStart f] ∧ t = { s with parser := t.parser, status := t.status }) ∧
    (∃ t, exec .parserReset s = .next t ∧
      t.parser.pstate = .scanMagic ∧ t.parser.buf = [] ∧ t.parser.curCount = 0 ∧ t.parser.curFrame = 0 ∧
      t.parser.evLeft = 0 ∧ t.parser.frameEvents = 0 ∧ t.parser.frameBytes = 0 ∧ t = { s with parser := t.parser })

/-- `frame_done` counts the frame, its events and its bytes with saturation, latches them, and emits the event; it and
`drift_update` set the drift: zero with a fresh offset on the first frame, else index minus frames counted minus offset, modulo
2^32 (R256, R257, R260). -/
def Obligations.FrameDoneAccounts : Prop :=
  ∀ (s : State) (f : Word32),
    (∃ t, exec .frameDone s = .next t ∧
      t.tel.framesTotal.toNat = capped (s.tel.framesTotal.toNat + 1) ∧
      t.tel.eventsTotal.toNat = capped (s.tel.eventsTotal.toNat + s.parser.frameEvents) ∧
      t.tel.bytesTotal.toNat = capped (s.tel.bytesTotal.toNat + s.parser.frameBytes.toNat) ∧
      t.tel.lastFrameIndex = s.parser.curFrame ∧ t.tel.lastFrameEvents = BitVec.ofNat 32 s.parser.frameEvents ∧
      t.tel.lastFrameBytes = s.parser.frameBytes ∧
      (∃ u, exec (.driftUpdate s.parser.curFrame) s = .next u ∧ t.tel.offsetValid = u.tel.offsetValid ∧
        t.tel.frameOffset = u.tel.frameOffset ∧ t.tel.drift = u.tel.drift) ∧
      t.tel.resyncCount = s.tel.resyncCount ∧ t.tel.buffullCount = s.tel.buffullCount ∧
      t.tel.queuePeak = s.tel.queuePeak ∧
      t.status = s.status ++ [.frameDone s.parser.curFrame s.parser.frameEvents s.parser.frameBytes] ∧
      t = { s with tel := t.tel, status := t.status }) ∧
    (∃ t, exec (.driftUpdate f) s = .next t ∧ t.tel.offsetValid = true ∧
      (s.tel.offsetValid = false → t.tel.frameOffset = f - s.tel.framesTotal ∧ t.tel.drift = 0) ∧
      (s.tel.offsetValid = true →
        t.tel.frameOffset = s.tel.frameOffset ∧ t.tel.drift = f - s.tel.framesTotal - s.tel.frameOffset) ∧
      t = { s with tel := { s.tel with
        offsetValid := true, frameOffset := t.tel.frameOffset, drift := t.tel.drift } })

/-- The commands: CYCLE_MODE steps the mode through 6581, 8580, split and initialises both cells with it, SET_VOICE_MASK stores
the byte, SET_FILTER stores whether it is non-zero, any other opcode does nothing; parameters 1 and 2 never matter
(R230 to R234). -/
def Obligations.CommandsDispatch : Prop :=
  ∀ (s : State) (op p0 p1 p2 : Byte),
    (op = 0x01 → ∃ t, exec (.controlDispatch op p0 p1 p2) s = .next t ∧
      (s.engine.modelMode = .m6581 → t.engine.modelMode = .m8580) ∧
      (s.engine.modelMode = .m8580 → t.engine.modelMode = .split) ∧
      (s.engine.modelMode = .split → t.engine.modelMode = .m6581) ∧
      t.engine = { s.engine with modelMode := t.engine.modelMode } ∧
      t.cellA = { s.cellA with trace := s.cellA.trace ++
        ([.setChipModel (if s.engine.modelMode = .m6581 then .mos8580 else .mos6581), .reset] ++
          s.cfg.resetWrites.map fun w => .write w.1 w.2) } ∧
      t.cellB = { s.cellB with trace := s.cellB.trace ++
        ([.setChipModel (if s.engine.modelMode = .split then .mos6581 else .mos8580), .reset] ++
          s.cfg.resetWrites.map fun w => .write w.1 w.2) } ∧
      t = { s with engine := t.engine, cellA := t.cellA, cellB := t.cellB }) ∧
    (op = 0x02 → exec (.controlDispatch op p0 p1 p2) s = .next { s with engine := { s.engine with voiceMask := p0 } }) ∧
    (op = 0x03 → exec (.controlDispatch op p0 p1 p2) s =
      .next { s with engine := { s.engine with filterEn := if p0 = 0 then false else true } }) ∧
    (op ≠ 0x01 → op ≠ 0x02 → op ≠ 0x03 → exec (.controlDispatch op p0 p1 p2) s = .next s)

/-! ## Receiving -/

/-- An enabled PULL moves the front byte of `rx` to the end of `BUF`, discarding the older half first when the buffer is full, and
captures it in `RECENT`; no other cell of `RECENT` changes (R201, R202, R203). -/
def Obligations.PullCompletes : Prop :=
  ∀ (s : State) (b : Byte) (rest : List Byte),
    s.sess = .streaming → s.paused = false → s.usb.rx = b :: rest → (s.cfg.eagerParse = true → parserEnabled s = false) →
    ∃ t, exec .pull s = .next t ∧
      t.usb = { s.usb with rx := rest } ∧
      (s.parser.buf.length ≠ s.cfg.bufSize →
        t.parser = { s.parser with buf := s.parser.buf ++ [b] } ∧ t.tel = s.tel ∧ t.status = s.status) ∧
      (s.parser.buf.length = s.cfg.bufSize →
        t.parser = { s.parser with buf := s.parser.buf.drop (s.cfg.bufSize / 2) ++ [b] } ∧
        t.tel = { s.tel with buffullCount := t.tel.buffullCount } ∧
        t.tel.buffullCount.toNat = capped (s.tel.buffullCount.toNat + 1) ∧
        t.status = s.status ++ [.error .bufferFull]) ∧
      memRead t.recent.bytes s.recent.wr = some b ∧
      (∀ a, a ≠ s.recent.wr → memRead t.recent.bytes a = memRead s.recent.bytes a) ∧
      t.recent.wr = (s.recent.wr + 1) % s.cfg.recentSize ∧
      t = { s with parser := t.parser, tel := t.tel, recent := t.recent, usb := t.usb, status := t.status }

/-- `buffer_full` and `recent_capture` on their own (R202, R203). That `buffer_full` with fewer than `B div 2` bytes held empties `BUF`
and still reports and counts is the model's choice (assumption log 25). -/
def Obligations.ReceiveSubroutinesComplete : Prop :=
  ∀ (s : State) (b : Byte),
    (∃ t, exec .bufferFull s = .next t ∧
      t.parser = { s.parser with buf := s.parser.buf.drop (s.cfg.bufSize / 2) } ∧
      t.tel = { s.tel with buffullCount := t.tel.buffullCount } ∧
      t.tel.buffullCount.toNat = capped (s.tel.buffullCount.toNat + 1) ∧
      t.status = s.status ++ [.error .bufferFull] ∧
      t = { s with parser := t.parser, tel := t.tel, status := t.status }) ∧
    (∃ t, exec (.recentCapture b) s = .next t ∧
      memRead t.recent.bytes s.recent.wr = some b ∧
      (∀ a, a ≠ s.recent.wr → memRead t.recent.bytes a = memRead s.recent.bytes a) ∧
      t.recent.wr = (s.recent.wr + 1) % s.cfg.recentSize ∧ t = { s with recent := t.recent })

/-! ## Session -/

/-- ATTACH from DISCONNECTED resets the queue, the residual, both cells, the parser and the session telemetry and begins the
handshake; policy, pump, pool, streams, recent bytes and status stay. Otherwise it is ignored (R150, R261, R271, R275). -/
def Obligations.AttachResetsTheSession : Prop :=
  ∀ s : State,
    (s.sess ≠ .disconnected → exec .attach s = .next s) ∧
    (s.sess = .disconnected → 0 < s.cfg.highWm → ∃ t, exec .attach s = .next t ∧
      t.sess = .awaitingHandshake ∧ t.txIdx = 0 ∧ t.parser = {} ∧ t.tel = {} ∧ t.paused = false ∧
      t.queue = { s.queue with head := 0, tail := 0, count := 0, droppedCount := 0 } ∧
      t.engine = { s.engine with acc := 0 } ∧
      t.cellA = { s.cellA with trace := s.cellA.trace ++
        ([.setChipModel (modelOf s.engine.modelMode .a), .reset] ++ s.cfg.resetWrites.map fun w => .write w.1 w.2) } ∧
      t.cellB = { s.cellB with trace := s.cellB.trace ++
        ([.setChipModel (modelOf s.engine.modelMode .b), .reset] ++ s.cfg.resetWrites.map fun w => .write w.1 w.2) } ∧
      t = { s with
        sess := t.sess, txIdx := t.txIdx, parser := t.parser, queue := t.queue, engine := t.engine, paused := t.paused,
        tel := t.tel, cellA := t.cellA, cellB := t.cellB })

/-- DETACH resets parser and queue, reports `Session.Reset` and disconnects; cells, residual, policy, `dropped_count`, telemetry
and pump stay. Otherwise it is ignored (R273, R275). -/
def Obligations.DetachKeepsTheCells : Prop :=
  ∀ s : State,
    (s.sess = .disconnected → exec .detach s = .next s) ∧
    (s.sess ≠ .disconnected → 0 < s.cfg.highWm → ∃ t, exec .detach s = .next t ∧
      t.sess = .disconnected ∧ t.parser = {} ∧ t.queue = { s.queue with head := 0, tail := 0, count := 0 } ∧
      t.paused = false ∧ t.status = s.status ++ [.error .sessionReset] ∧
      t = { s with
        sess := t.sess, parser := t.parser, queue := t.queue, paused := t.paused, status := t.status })

/-- TX_READY_BYTE sends the next byte of the line, and the fourteenth begins the session's streaming; elsewhere, or when the
transport takes nothing, it waits (R97, R272; assumption log 1). -/
def Obligations.TxReadyByteSends : Prop :=
  ∀ s : State,
    (s.sess = .awaitingHandshake → s.usb.txReady = true → ∀ b, readyBytes[s.txIdx]? = some b →
      exec .txReadyByte s = .next { s with
        usb := { s.usb with tx := s.usb.tx ++ [b] }, txIdx := s.txIdx + 1,
        sess := if s.txIdx = 13 then .streaming else .awaitingHandshake }) ∧
    ((s.sess ≠ .awaitingHandshake ∨ s.usb.txReady = false) → exec .txReadyByte s = .next s)

/-- The whole line: from any point of the handshake the rest of the fourteen bytes go out once, in order, and the session
streams (R97, R272; the row READY_LINE as fourteen steps in one: assumption log 11). -/
def Obligations.HandshakeSendsTheLine : Prop :=
  ∀ s : State, s.sess = .awaitingHandshake → s.usb.txReady = true → s.txIdx < 14 →
    exec .readyLine s = .next { s with
      usb := { s.usb with tx := s.usb.tx ++
        ([0x5B, 0x44, 0x55, 0x4D, 0x50, 0x5D, 0x20, 0x52, 0x45, 0x41, 0x44, 0x59, 0x0D, 0x0A] : List Byte).drop s.txIdx }
      txIdx := 14, sess := .streaming }

/-! ## Event queue and flow control -/

/-- The operands of a push, narrowed: the low 2, 5, 8 and 32 bits of any integers (R181). -/
def narrowed (m a v d : Int) : Event :=
  { chipMask := BitVec.ofNat 2 (m % 4).toNat, addr := BitVec.ofNat 5 (a % 32).toNat,
    value := BitVec.ofNat 8 (v % 256).toNat, delta := BitVec.ofNat 32 (d % 2 ^ 32).toNat }

/-- What `flow_update` leaves in `paused`, at the depth of the later state (R246). -/
def Flowed (s t : State) : Prop :=
  (s.paused = false → (t.paused = true ↔ s.cfg.highWm ≤ t.queue.count)) ∧
  (s.paused = true → (t.paused = false ↔ t.queue.count ≤ s.cfg.lowWm))

/-- A push with room stores the narrowed event at `tail`, answers true, raises the peak and updates the flow flag; `queue_event` is
the same operation; no other slot of the ring changes (R145, R181, R258). -/
def Obligations.PushWithRoom : Prop :=
  ∀ (s : State) (m a v d : Int) (i : Instr), (i = .push m a v d ∨ i = .queueEvent m a v d) →
    s.queue.count ≠ s.cfg.queueCap →
    ∃ t, exec i s = .next t ∧ t.ret = .bool true ∧
      memRead t.queue.ring s.queue.tail = some (narrowed m a v d) ∧
      (∀ k, k ≠ s.queue.tail → memRead t.queue.ring k = memRead s.queue.ring k) ∧
      t.queue = { s.queue with
        ring := t.queue.ring, tail := (s.queue.tail + 1) % s.cfg.queueCap, count := s.queue.count + 1 } ∧
      t.tel = { s.tel with queuePeak := max s.tel.queuePeak (s.queue.count + 1) } ∧ Flowed s t ∧
      t = { s with queue := t.queue, tel := t.tel, paused := t.paused, ret := t.ret }

/-- A push into a full ring reports and drops the oldest event, whose remaining delta the new head absorbs modulo 2^32, counts
it, and stores the new event in its slot (R181, R182, R187, R188, R294). -/
def Obligations.PushOnFullRing : Prop :=
  ∀ (s : State) (m a v d : Int) (i : Instr), (i = .push m a v d ∨ i = .queueEvent m a v d) →
    2 ≤ s.cfg.queueCap → s.queue.count = s.cfg.queueCap → s.queue.head < s.cfg.queueCap → s.queue.tail = s.queue.head →
    ∃ (t : State) (h : Nat), h = (s.queue.head + 1) % s.cfg.queueCap ∧ exec i s = .next t ∧ t.ret = .bool true ∧
      t.status = s.status ++ [.error (.queueOverflow (ringAt s s.queue.head))] ∧
      memRead t.queue.ring s.queue.head = some (narrowed m a v d) ∧
      memRead t.queue.ring h = some { ringAt s h with delta := (ringAt s h).delta + (ringAt s s.queue.head).delta } ∧
      (∀ k, k ≠ s.queue.head → k ≠ h → memRead t.queue.ring k = memRead s.queue.ring k) ∧
      t.queue.head = h ∧ t.queue.tail = h ∧ t.queue.count = s.cfg.queueCap ∧
      t.queue.droppedCount.toNat = capped (s.queue.droppedCount.toNat + 1) ∧
      t.tel = { s.tel with queuePeak := max s.tel.queuePeak s.cfg.queueCap } ∧ Flowed s t ∧
      t = { s with queue := t.queue, tel := t.tel, paused := t.paused, status := t.status, ret := t.ret }

/-- `drop_oldest` on its own: refused when nothing is held; the last event goes without a merge; otherwise the new head absorbs
the dropped delta, and no other slot changes (R182, R187, R188; the refusal is the model's choice, assumption log 14). -/
def Obligations.DropOldestCompletes : Prop :=
  ∀ s : State,
    (s.queue.count = 0 → exec .dropOldest s = .refused .queueEmpty) ∧
    (0 < s.queue.count → ∃ (t : State) (h : Nat), h = (s.queue.head + 1) % s.cfg.queueCap ∧
      exec .dropOldest s = .next t ∧
      t.status = s.status ++ [.error (.queueOverflow (ringAt s s.queue.head))] ∧
      (s.queue.count = 1 → t.queue.ring = s.queue.ring) ∧
      (1 < s.queue.count →
        memRead t.queue.ring h = some { ringAt s h with delta := (ringAt s h).delta + (ringAt s s.queue.head).delta } ∧
        ∀ k, k ≠ h → memRead t.queue.ring k = memRead s.queue.ring k) ∧
      t.queue.head = h ∧ t.queue.tail = s.queue.tail ∧ t.queue.count = s.queue.count - 1 ∧
      t.queue.droppedCount.toNat = capped (s.queue.droppedCount.toNat + 1) ∧
      t = { s with queue := t.queue, status := t.status })

/-- `pop` answers and removes the event at `head` and updates the flow flag; on an empty queue it answers none (R183). -/
def Obligations.PopCompletes : Prop :=
  ∀ s : State,
    (s.queue.count = 0 → exec .pop s = .next { s with ret := .event none }) ∧
    (0 < s.queue.count → ∃ t, exec .pop s = .next t ∧ t.ret = .event (some (ringAt s s.queue.head)) ∧
      t.queue = { s.queue with head := (s.queue.head + 1) % s.cfg.queueCap, count := s.queue.count - 1 } ∧ Flowed s t ∧
      t = { s with queue := t.queue, paused := t.paused, ret := t.ret })

/-- The accessors answer and write nothing: `peek`, `depth`, `get_queue_depth`, `get_dropped_event_count`; `get_monitor` answers the
nine values, the two snapshots being what `read_state` gives on cell 0 and then on cell 1 (R152, R184, R185; that the snapshots
appear in the traces is the model's reading, assumption log 8). -/
def Obligations.AccessorsAnswer : Prop :=
  ∀ s : State,
    (s.queue.count = 0 → exec .peek s = .next { s with ret := .event none }) ∧
    (0 < s.queue.count → exec .peek s = .next { s with ret := .event (some (ringAt s s.queue.head)) }) ∧
    exec .depth s = .next { s with ret := .nat s.queue.count } ∧
    exec .getQueueDepth s = .next { s with ret := .nat s.queue.count } ∧
    exec .getDroppedEventCount s = .next { s with ret := .word s.queue.droppedCount } ∧
    ∃ (ua ub : State) (ka kb : CellState), exec (.sidReadState .a) s = .next ua ∧ ua.ret = .cellState ka ∧
      exec (.sidReadState .b) ua = .next ub ∧ ub.ret = .cellState kb ∧
      exec .getMonitor s = .next { ub with
        ret := .monitor
          { cell0 := ka, cell1 := kb, count := s.queue.count, droppedCount := s.queue.droppedCount,
            queuePeak := s.tel.queuePeak, modelMode := s.engine.modelMode, voiceMask := s.engine.voiceMask,
            filterEn := s.engine.filterEn, paused := s.paused } }

/-- The queue's reset empties it and releases the flow flag, keeping contents, `dropped_count` and all else;
`reset_queue_state` is that and nothing else (R151, R186). -/
def Obligations.QueueResetsComplete : Prop :=
  ∀ (s : State) (i : Instr), (i = .queueReset ∨ i = .resetQueueState) → 0 < s.cfg.highWm →
    exec i s = .next { s with queue := { s.queue with head := 0, tail := 0, count := 0 }, paused := false }

/-- `flow_update` is a hysteresis between the two watermarks and writes nothing else (R246). -/
def Obligations.FlowUpdateIsHysteresis : Prop :=
  ∀ s : State, s.cfg.lowWm < s.cfg.highWm → ∃ t, exec .flowUpdate s = .next t ∧
    (s.paused = false → s.cfg.highWm ≤ s.queue.count → t.paused = true) ∧
    (s.paused = true → s.queue.count ≤ s.cfg.lowWm → t.paused = false) ∧
    (s.paused = false → s.queue.count < s.cfg.highWm → t.paused = false) ∧
    (s.paused = true → s.cfg.lowWm < s.queue.count → t.paused = true) ∧
    t = { s with paused := t.paused }

/-- `consume_cycles` lowers the head's delta in place; it is refused on an empty queue and for a run outside `1 ..
ring[head].delta` (R192; the refusals are the model's choice, assumption log 14). -/
def Obligations.ConsumeCyclesCompletes : Prop :=
  ∀ (s : State) (r : Word32),
    (s.queue.count = 0 → exec (.consumeCycles r) s = .refused .queueEmpty) ∧
    (0 < s.queue.count → (r.toNat = 0 ∨ (ringAt s s.queue.head).delta.toNat < r.toNat) →
      exec (.consumeCycles r) s = .refused .runOutOfRange) ∧
    (0 < s.queue.count → 1 ≤ r.toNat → r.toNat ≤ (ringAt s s.queue.head).delta.toNat →
      ∃ (t : State) (d : Word32), exec (.consumeCycles r) s = .next t ∧
        d.toNat = (ringAt s s.queue.head).delta.toNat - r.toNat ∧
        memRead t.queue.ring s.queue.head = some { ringAt s s.queue.head with delta := d } ∧
        (∀ k, k ≠ s.queue.head → memRead t.queue.ring k = memRead s.queue.ring k) ∧
        t = { s with queue := { s.queue with ring := t.queue.ring } })

/-- Delta conservation: a push raises the queue's total pending time by its delta modulo 2^32, whether or not it drops; a pop lowers
it by the popped delta and `consume_cycles` by its run (R189). -/
def Obligations.DeltaConservation : Prop :=
  ∀ s : State, QueueOk s → 2 ≤ s.cfg.queueCap →
    (∀ m a v d : Int, ∃ t, exec (.push m a v d) s = .next t ∧
      totalDelta (heldEvents t) % 2 ^ 32 = (totalDelta (heldEvents s) + (d % 2 ^ 32).toNat) % 2 ^ 32) ∧
    (0 < s.queue.count → ∃ t, exec .pop s = .next t ∧
      totalDelta (heldEvents s) = (ringAt s s.queue.head).delta.toNat + totalDelta (heldEvents t)) ∧
    (∀ r : Word32, 0 < s.queue.count → 1 ≤ r.toNat → r.toNat ≤ (ringAt s s.queue.head).delta.toNat →
      ∃ t, exec (.consumeCycles r) s = .next t ∧
        totalDelta (heldEvents s) = r.toNat + totalDelta (heldEvents t))

/-- The queue is first in, first out: a push appends, a push into a full ring drops the oldest held and only that one, a pop
removes the oldest (R62, R190). -/
def Obligations.QueueKeepsOrder : Prop :=
  ∀ s : State, QueueOk s → 2 ≤ s.cfg.queueCap →
    (heldEvents s).length = s.queue.count ∧
    (∀ m a v d : Int, s.queue.count < s.cfg.queueCap → ∃ t, exec (.push m a v d) s = .next t ∧
      heldEvents t = heldEvents s ++ [narrowed m a v d]) ∧
    (∀ m a v d : Int, s.queue.count = s.cfg.queueCap → ∃ (t : State) (old new : Event) (es : List Event),
      exec (.push m a v d) s = .next t ∧ heldEvents s = old :: new :: es ∧
      heldEvents t = { new with delta := new.delta + old.delta } :: es ++ [narrowed m a v d]) ∧
    (0 < s.queue.count → ∃ (t : State) (e : Event), exec .pop s = .next t ∧ t.ret = .event (some e) ∧
      heldEvents s = e :: heldEvents t)

/-! ## Scheduler -/

/-- One sample: step 1 takes the budget from the residual, forcing one cycle where it would be zero; both cells are clocked
by the same runs, each at least 1, adding up to the budget; their outputs are read last (R137, R139, R140, R156, R353).
Where the ring's registers agree: of the events held, in order, exactly those are popped and applied whose deltas add up to at
most the budget, each after its delta has been clocked, an event due at once with no clocking before it; the cycles then left of
the budget are clocked, and the first event held on has them taken off its delta in place (R138, R139, R142, R144, R153). -/
def Obligations.RenderSampleAdvances : Prop :=
  ∀ s : State, ∃ (t : State) (ka kb : List CellCall) (cycles : Nat), exec .renderSample s = .next t ∧
    ((s.engine.acc + s.cfg.clkHz) / s.cfg.fsHz = 0 →
      cycles = 1 ∧ t.engine = { s.engine with acc := 0 } ∧ t.status = s.status ++ [.error .zeroCycle]) ∧
    ((s.engine.acc + s.cfg.clkHz) / s.cfg.fsHz ≠ 0 →
      cycles = (s.engine.acc + s.cfg.clkHz) / s.cfg.fsHz ∧
      t.engine = { s.engine with acc := (s.engine.acc + s.cfg.clkHz) % s.cfg.fsHz } ∧ t.status = s.status) ∧
    t.cellA = { s.cellA with trace := s.cellA.trace ++ ka ++ [.output] } ∧
    t.cellB = { s.cellB with trace := s.cellB.trace ++ kb ++ [.output] } ∧
    clockRuns ka = clockRuns kb ∧ clockedCycles ka = cycles ∧ clockedCycles kb = cycles ∧
    (∀ n ∈ clockRuns ka, 1 ≤ n) ∧
    (QueueOk s → ∃ (due rest : List Event) (left : Nat), Played s t due rest left ka kb ∧ totalDelta due + left = cycles ∧
      ∀ e, rest.head? = some e → left < e.delta.toNat) ∧
    t = { s with
      queue := t.queue, engine := t.engine, paused := t.paused, cellA := t.cellA, cellB := t.cellB, status := t.status,
      ret := t.ret }

/-- The frame a sample answers is the two cells' outputs after their clocking, cell 0 left and cell 1 right, each gained and then
clamped to 16 bits (R69, R140, R147). -/
def Obligations.RenderFrameIsGainedOutput : Prop :=
  ∀ s : State, ∃ (u ua ub : State) (o0 o1 : Word32) (z0 z1 : Int),
    exec (.sidOutput .a) u = .next ua ∧ ua.ret = .word o0 ∧ exec (.sidOutput .b) ua = .next ub ∧ ub.ret = .word o1 ∧
    exec (.gain o0) s = .next { s with ret := .int z0 } ∧ exec (.gain o1) s = .next { s with ret := .int z1 } ∧
    exec .renderSample s = .next { ub with
      ret := .frame
        { left := BitVec.ofInt 16 (max (-32768) (min 32767 z0)),
          right := BitVec.ofInt 16 (max (-32768) (min 32767 z1)) } }

/-- After `render_sample` no event is due: the queue is empty or its head has cycles left (R155). -/
def Obligations.RenderLeavesNoDueEvent : Prop :=
  ∀ s : State, ∃ t, exec .renderSample s = .next t ∧
    (t.queue.count = 0 ∨ 0 < (ringAt t t.queue.head).delta.toNat)

/-- Over `n` samples with `FS_HZ ≤ CLK_HZ` each cell is clocked `(acc + n·CLK_HZ) div FS_HZ` cycles and the remainder is kept; with
`FS_HZ > CLK_HZ` exactly `n` cycles (R154, R156). -/
def Obligations.RenderRunTotal : Prop :=
  ∀ (s : State) (n : Nat), 0 < s.cfg.fsHz → 0 < s.cfg.clkHz → s.engine.acc < s.cfg.fsHz →
    ∃ ka kb : List CellCall,
      (renderRun n s).cellA.trace = s.cellA.trace ++ ka ∧ (renderRun n s).cellB.trace = s.cellB.trace ++ kb ∧
      clockRuns ka = clockRuns kb ∧
      (s.cfg.fsHz ≤ s.cfg.clkHz →
        clockedCycles ka = (s.engine.acc + n * s.cfg.clkHz) / s.cfg.fsHz ∧
        (renderRun n s).engine.acc = (s.engine.acc + n * s.cfg.clkHz) % s.cfg.fsHz) ∧
      (s.cfg.clkHz < s.cfg.fsHz → clockedCycles ka = n)

/-- The eager drain applies exactly the due events at the front, in order, with no clocking between them, and leaves the rest
(R138, R144, R153). -/
def Obligations.DrainZeroAppliesDueEvents : Prop :=
  ∀ s : State, QueueOk s → ∃ (t : State) (due : List Event), exec .drainZero s = .next t ∧
    heldEvents s = due ++ heldEvents t ∧ (∀ e ∈ due, e.delta = 0) ∧
    (∀ e, (heldEvents t).head? = some e → e.delta ≠ 0) ∧
    t.cellA = { s.cellA with trace := s.cellA.trace ++ eventWrites s.cfg s.engine .a due } ∧
    t.cellB = { s.cellB with trace := s.cellB.trace ++ eventWrites s.cfg s.engine .b due } ∧
    t.queue = { s.queue with head := t.queue.head, count := t.queue.count } ∧
    t = { s with queue := t.queue, paused := t.paused, cellA := t.cellA, cellB := t.cellB }

/-- Applying an event reaches the cells its mask selects, cell 0 first, a zero mask both; a gated filter register is not written at
all, any other write is passed on through the mute transformation (R142, R143, R237). A transformation given as a table, its first
matching row keyed by `voice_mask[2:0]`, address and value, and lawful when no row is keyed by no voice, is the form the model
gives the strap of R8 (assumption log 13). -/
def Obligations.EventsAreAppliedThroughTheGate : Prop :=
  ∀ s : State,
    (∀ e : Event,
      (e.chipMask = 0 ∨ e.chipMask = 3 → ∃ u t, exec (.cellWrite .a e.addr e.value) s = .next u ∧
        exec (.cellWrite .b e.addr e.value) u = .next t ∧ exec (.applyEvent e) s = .next t) ∧
      (e.chipMask = 1 → ∃ t, exec (.cellWrite .a e.addr e.value) s = .next t ∧ exec (.applyEvent e) s = .next t) ∧
      (e.chipMask = 2 → ∃ t, exec (.cellWrite .b e.addr e.value) s = .next t ∧ exec (.applyEvent e) s = .next t)) ∧
    (∀ (c : CellId) (a : SidAddr) (v : Byte),
      (s.engine.filterEn = false → a ∈ s.cfg.filterRegs → exec (.cellWrite c a v) s = .next s) ∧
      (s.engine.filterEn = true ∨ a ∉ s.cfg.filterRegs → ∃ w : Byte,
        (c = .a → exec (.cellWrite c a v) s =
          .next { s with cellA := { s.cellA with trace := s.cellA.trace ++ [.write a w] } }) ∧
        (c = .b → exec (.cellWrite c a v) s =
          .next { s with cellB := { s.cellB with trace := s.cellB.trace ++ [.write a w] } }) ∧
        (s.cfg.muteXform.lawful = true → s.engine.voiceMask &&& 7 = 0 → w = v) ∧
        (s.cfg.muteXform = .default →
          w = if (∃ k < 3, s.engine.voiceMask.getLsbD k = true ∧ a.toNat = 7 * k + 4) then v &&& 0x0E else v) ∧
        (∀ rows, s.cfg.muteXform = .table rows →
          w = ((rows.find? fun r => decide (r.voices = s.engine.voiceMask.setWidth 3 ∧ r.addr = a ∧ r.value = v)).map
            MuteRow.result).getD v)))

/-- The gain is the exact product by the fraction, rounded toward zero (R146). -/
def Obligations.GainTruncatesTowardZero : Prop :=
  ∀ (s : State) (o : Word32), ∃ z : Int, exec (.gain o) s = .next { s with ret := .int z } ∧
    z.natAbs = o.toInt.natAbs * s.cfg.gainNum.toNat / s.cfg.gainDen.toNat ∧
    (0 ≤ o.toInt → 0 ≤ z) ∧ (o.toInt ≤ 0 → z ≤ 0)

/-- Construction and initialisation of a cell, and the engine reset: the calls they make, in order, and what the reset clears
(R148, R149, R150). -/
def Obligations.InitialisationsComplete : Prop :=
  ∀ s : State,
    (∀ (c : CellId) (ks : List CellCall) (i : Instr),
      ((i = .cellInit c ∧ ks = [.setChipModel (modelOf s.engine.modelMode c), .reset] ++
          s.cfg.resetWrites.map fun w => .write w.1 w.2) ∨
       (i = .cellConstruct c ∧ ks = [.setSamplingParameters s.cfg.clkHz s.cfg.samplingMode s.cfg.fsHz,
          .enableFilter s.cfg.cellFilterEn, .enableExternalFilter s.cfg.cellExtFilterEn])) →
      (c = .a → exec i s = .next { s with cellA := { s.cellA with trace := s.cellA.trace ++ ks } }) ∧
      (c = .b → exec i s = .next { s with cellB := { s.cellB with trace := s.cellB.trace ++ ks } })) ∧
    (0 < s.cfg.highWm → ∃ u t, exec (.cellInit .a) { s with
        queue := { s.queue with head := 0, tail := 0, count := 0, droppedCount := 0 }
        paused := false, engine := { s.engine with acc := 0 } } = .next u ∧
      exec (.cellInit .b) u = .next t ∧ exec .engineReset s = .next t)

/-! ## SID cells -/

/-- Each operation of the cell contract is recorded in its cell's trace and touches nothing else; `clock(0)` is outside the contract
and refused; the two that return a value answer it (R120 to R130; the refusal is the model's choice, assumption log 14). -/
def Obligations.CellCallsAreRecorded : Prop :=
  ∀ s : State,
    (∀ (c : CellId) (i : Instr) (k : CellCall),
      ((∃ a v, i = .sidWrite c a v ∧ k = .write a v) ∨ (∃ n, n ≠ 0 ∧ i = .sidClock c n ∧ k = .clock n.toNat) ∨
       (∃ m, i = .sidSetChipModel c m ∧ k = .setChipModel m) ∨ (i = .sidReset c ∧ k = .reset) ∨
       (∃ b, i = .sidEnableFilter c b ∧ k = .enableFilter b) ∨
       (∃ b, i = .sidEnableExternalFilter c b ∧ k = .enableExternalFilter b) ∨
       (∃ f m r, i = .sidSetSamplingParameters c f m r ∧ k = .setSamplingParameters f m r)) →
      (c = .a → exec i s = .next { s with cellA := { s.cellA with trace := s.cellA.trace ++ [k] } }) ∧
      (c = .b → exec i s = .next { s with cellB := { s.cellB with trace := s.cellB.trace ++ [k] } })) ∧
    (∀ c, exec (.sidClock c 0) s = .refused .clockZero) ∧
    (∃ w, exec (.sidOutput .a) s =
      .next { s with cellA := { s.cellA with trace := s.cellA.trace ++ [.output] }, ret := .word w }) ∧
    (∃ w, exec (.sidOutput .b) s =
      .next { s with cellB := { s.cellB with trace := s.cellB.trace ++ [.output] }, ret := .word w }) ∧
    (∃ k, exec (.sidReadState .a) s =
      .next { s with cellA := { s.cellA with trace := s.cellA.trace ++ [.readState] }, ret := .cellState k }) ∧
    (∃ k, exec (.sidReadState .b) s =
      .next { s with cellB := { s.cellB with trace := s.cellB.trace ++ [.readState] }, ret := .cellState k })

/-- Reading a cell changes nothing and may be repeated (R74), and a call on the other cell does not show (R130); the mock cell
answers its settable output, and its registers hold what was written last, 0 after a reset (R131). -/
def Obligations.CellResultsRepeatAndMockStores : Prop :=
  ∀ (s : State) (c c' : CellId) (a : SidAddr) (v : Byte), c' ≠ c →
    (∃ (s1 s2 s3 s4 s5 : State) (w : Word32) (k : CellState),
      exec (.sidOutput c) s = .next s1 ∧ s1.ret = .word w ∧ exec (.sidReadState c) s1 = .next s2 ∧ s2.ret = .cellState k ∧
      exec (.sidWrite c' a v) s2 = .next s3 ∧ exec (.sidOutput c) s3 = .next s4 ∧ s4.ret = .word w ∧
      exec (.sidReadState c) s4 = .next s5 ∧ s5.ret = .cellState k ∧
      (s.cfg.mockCells = true → w = (cellOf s c).out)) ∧
    (s.cfg.mockCells = true → ∃ (s1 s2 s3 s4 s5 s6 s7 : State) (k1 k3 k5 k7 : CellState),
      exec (.sidReadState c) s = .next s1 ∧ s1.ret = .cellState k1 ∧
      exec (.sidWrite c a v) s1 = .next s2 ∧ exec (.sidReadState c) s2 = .next s3 ∧ s3.ret = .cellState k3 ∧
      k3.sidRegister = k1.sidRegister.set a.toNat v ∧
      exec (.sidClock c 22) s3 = .next s4 ∧ exec (.sidReadState c) s4 = .next s5 ∧ s5.ret = .cellState k5 ∧
      k5.sidRegister = k3.sidRegister ∧
      exec (.sidReset c) s5 = .next s6 ∧ exec (.sidReadState c) s6 = .next s7 ∧ s7.ret = .cellState k7 ∧
      k7.sidRegister = List.replicate 32 0)

/-! ## Pump, pool and sink -/

/-- PUMP_ACQUIRE and `take_free`: the lowest FREE buffer becomes TAKEN; with none FREE the acquire reports it and changes nothing,
`take_free` answers none; an active pump does not acquire (R165, R166, R295; the choice of the lowest index is the model's, assumption
log 9, and so is recording the event, log 16; an acquire that is not enabled as a step without effect is log 1). -/
def Obligations.AcquireCompletes : Prop :=
  ∀ s : State,
    (s.pump.active = true → exec .pumpAcquire s = .next s) ∧
    ((∀ x ∈ s.pool.buffers, x.cond ≠ .free) →
      exec .takeFree s = .next { s with ret := .buffer none } ∧
      (s.pump.active = false → exec .pumpAcquire s = .next { s with status := s.status ++ [.error .noFreeBuffer] })) ∧
    (∀ (b : Nat) (x : Buffer), s.pool.buffers[b]? = some x → x.cond = .free →
      (∀ (k : Nat) (y : Buffer), k < b → s.pool.buffers[k]? = some y → y.cond ≠ .free) →
      exec .takeFree s = .next { s with
        pool := { s.pool with buffers := s.pool.buffers.set b { x with cond := .taken } }, ret := .buffer (some b) } ∧
      (s.pump.active = false → exec .pumpAcquire s = .next { s with
        pool := { s.pool with buffers := s.pool.buffers.set b { x with cond := .taken } }
        pump := { active := true, buf := b, idx := 0 } }))

/-- PUMP_RENDER renders one sample into the next frame of the acquired buffer and changes no other frame; with no buffer or a
full one it waits (R167; the linear address of a frame is the model's, assumption log 17, and waiting as a step without effect is
log 1). -/
def Obligations.PumpRenderCompletes : Prop :=
  ∀ s : State,
    (s.pump.active = true → s.pump.idx < s.cfg.frames → ∃ (u t : State) (f : Frame),
      exec .renderSample s = .next u ∧ u.ret = .frame f ∧ exec .pumpRender s = .next t ∧
      memRead t.pool.audio (s.pump.buf * s.cfg.frames + s.pump.idx) = some f ∧
      (∀ k, k ≠ s.pump.buf * s.cfg.frames + s.pump.idx → memRead t.pool.audio k = memRead s.pool.audio k) ∧
      t = { u with
        ret := s.ret, pool := { s.pool with audio := t.pool.audio }, pump := { s.pump with idx := s.pump.idx + 1 } }) ∧
    (s.pump.active = false ∨ s.cfg.frames ≤ s.pump.idx → exec .pumpRender s = .next s)

/-- PUMP_COMMIT hands the filled buffer to the sink; `give_full` does so for a TAKEN buffer, is refused for another and faults for
an index that is no buffer; the sink outputs the oldest FULL buffer's frames in order and frees it (R165, R168, R171, R172; the
stops and the sink's single step are the model's choices, assumption logs 14 and 18; so are a disabled commit and an idle sink as
steps without effect, log 1, and the address of a frame, log 17). -/
def Obligations.CommitGiveAndSinkComplete : Prop :=
  ∀ (s : State) (b : Nat),
    (∀ x, s.pump.active = true → s.pump.idx = s.cfg.frames → s.pump.buf = b → s.pool.buffers[b]? = some x →
      exec .pumpCommit s = .next { s with
        pool := { s.pool with
          buffers := s.pool.buffers.set b { cond := .full, sampleCount := s.cfg.frames }, full := s.pool.full ++ [b] }
        pump := { s.pump with active := false, idx := 0 } }) ∧
    (s.pump.active = false ∨ s.pump.idx ≠ s.cfg.frames → exec .pumpCommit s = .next s) ∧
    (∀ x, s.pool.buffers[b]? = some x → x.cond = .taken →
      exec (.giveFull b) s = .next { s with
        pool := { s.pool with
          buffers := s.pool.buffers.set b { x with cond := .full }, full := s.pool.full ++ [b] } }) ∧
    (∀ x, s.pool.buffers[b]? = some x → x.cond ≠ .taken → exec (.giveFull b) s = .refused .bufferNotTaken) ∧
    (s.pool.buffers[b]? = none → exec (.giveFull b) s = .fault .noSuchBuffer) ∧
    (s.pool.full = [] → exec .sinkFree s = .next s) ∧
    (∀ x rest, s.pool.full = b :: rest → s.pool.buffers[b]? = some x → ∃ fs : List Frame,
      fs.length = x.sampleCount ∧
      (∀ j f, j < x.sampleCount → memRead s.pool.audio (b * s.cfg.frames + j) = some f → fs[j]? = some f) ∧
      exec .sinkFree s = .next { s with
        pool := { s.pool with
          buffers := s.pool.buffers.set b { x with cond := .free }, full := rest, played := s.pool.played ++ fs } })

/-- Executing PUMP_RENDER `n ≤ FRAMES` times from frame 0 writes the results of `n` calls of `render_sample`, in call order, into
frames `0 .. n−1`, and advances scheduler, queue and cells as those calls do (R167, R171; the linear address of a frame is the
model's, assumption log 17). -/
def Obligations.PumpWritesSamplesInOrder : Prop :=
  ∀ (s : State) (n : Nat), s.pump.active = true → s.pump.idx = 0 → n ≤ s.cfg.frames →
    (pumpRun n s).pump = { s.pump with idx := n } ∧ (pumpRun n s).queue = (renderRun n s).queue ∧
    (pumpRun n s).engine = (renderRun n s).engine ∧ (pumpRun n s).cellA = (renderRun n s).cellA ∧
    (pumpRun n s).cellB = (renderRun n s).cellB ∧ (pumpRun n s).status = (renderRun n s).status ∧
    ∀ j, j < n → ∃ (t : State) (f : Frame), exec .renderSample (renderRun j s) = .next t ∧ t.ret = .frame f ∧
      memRead (pumpRun n s).pool.audio (s.pump.buf * s.cfg.frames + j) = some f

/-! ## The whole machine -/

/-- Every step keeps the invariant (R48, R249). -/
def Obligations.StepKeepsInv : Prop :=
  ∀ s t : State, Inv s → step s = .next t → Inv t

/-- Right after power-on reset the invariants hold, for every admissible configuration and for `State.reset` (R47, R48, R331). -/
def Obligations.ResetHasInv : Prop :=
  (∀ cfg : Config, cfg.valid = true →
    Inv (State.afterPowerOn cfg) ∧ PoolOk (State.afterPowerOn cfg) ∧ EagerOk (State.afterPowerOn cfg)) ∧
  Inv State.reset ∧ PoolOk State.reset ∧ EagerOk State.reset

/-- Every step keeps the pool's discipline: only the pump's buffer is TAKEN, and every FULL buffer is queued once with all its
frames written (R41, R64, R171). -/
def Obligations.StepKeepsPool : Prop :=
  ∀ s t : State, Inv s → PoolOk s → step s = .next t → PoolOk t

/-- Under eager parsing, with the parser as the only producer, no step overflows: neither BufferFull nor Queue.Overflow is raised,
and the discipline that gives this is kept (R202, R212, R249). What DETACH discards (R273) is no part of this. -/
def Obligations.EagerParsingNeverOverflows : Prop :=
  ∀ s t : State, Inv s → EagerOk s → s.cfg.eagerParse = true →
    (∀ m a v d, (nextTurn s).1 ≠ .queueEvent m a v d) → step s = .next t →
    EagerOk t ∧ ∃ es, t.status = s.status ++ es ∧
      ∀ e ∈ es, e ≠ .error .bufferFull ∧ ∀ x, e ≠ .error (.queueOverflow x)

/-- Telemetry never feeds back: what an operation, or a step, does to everything else does not depend on any telemetry register
(R255). -/
def Obligations.TelemetryNeverFeedsBack : Prop :=
  (∀ (i : Instr) (s : State), maskOutcome (exec i (maskTelemetry s)) = maskOutcome (exec i s)) ∧
  (∀ s : State, maskOutcome (step (maskTelemetry s)) = maskOutcome (step s))

/-- The power-on reset sequence, for every admissible configuration: disconnected, queue empty, the residual after `2·FRAMES`
samples, each cell constructed, initialised and clocked through them, two buffers FULL; and it is what `State.afterPowerOn` writes
out (R331). That the two FULL buffers are 0 and 1 rests on the model's order of taking buffers (assumption log 9); the pump's
buffer register and the other values the spec leaves open are its choice (log 3), and so are the addresses of the frames that
`State.afterPowerOn` lists (log 17). -/
def Obligations.PowerOnLeaves : Prop :=
  ∀ cfg : Config, cfg.valid = true → powerOn cfg = .next (State.afterPowerOn cfg) ∧
    ∃ t ka kb, powerOn cfg = .next t ∧ t.cfg = cfg ∧ t.sess = .disconnected ∧ t.queue.count = 0 ∧ t.queue.droppedCount = 0 ∧
      t.parser = {} ∧ t.tel = {} ∧ t.paused = false ∧ t.pump.active = false ∧ t.pump.idx = 0 ∧
      t.engine.modelMode = cfg.initMode ∧ t.engine.voiceMask = 0 ∧ t.engine.filterEn = true ∧
      (cfg.fsHz ≤ cfg.clkHz → t.engine.acc = 2 * cfg.frames * cfg.clkHz % cfg.fsHz ∧ t.status = []) ∧
      (cfg.clkHz < cfg.fsHz → t.engine.acc = 0) ∧
      t.pool.full = [0, 1] ∧
      t.cellA.trace = [.setSamplingParameters cfg.clkHz cfg.samplingMode cfg.fsHz, .enableFilter cfg.cellFilterEn,
        .enableExternalFilter cfg.cellExtFilterEn, .setChipModel (modelOf cfg.initMode .a), .reset] ++
        (cfg.resetWrites.map fun w => .write w.1 w.2) ++ ka ∧
      t.cellB.trace = [.setSamplingParameters cfg.clkHz cfg.samplingMode cfg.fsHz, .enableFilter cfg.cellFilterEn,
        .enableExternalFilter cfg.cellExtFilterEn, .setChipModel (modelOf cfg.initMode .b), .reset] ++
        (cfg.resetWrites.map fun w => .write w.1 w.2) ++ kb ∧
      ka = kb ∧ (ka.filter (· = .output)).length = 2 * cfg.frames ∧
      (cfg.fsHz ≤ cfg.clkHz → clockedCycles ka = 2 * cfg.frames * cfg.clkHz / cfg.fsHz)

/-- In every step the straps stay, every trace of the observation only grows, and within a session (any step but ATTACH) no counter
decreases (R21, R188, R260, R361). -/
def Obligations.TracesAndCountersGrow : Prop :=
  ∀ s t : State, step s = .next t →
    t.cfg = s.cfg ∧ s.cellA.trace <+: t.cellA.trace ∧ s.cellB.trace <+: t.cellB.trace ∧ s.usb.tx <+: t.usb.tx ∧
    s.status <+: t.status ∧ s.pool.played <+: t.pool.played ∧
    ((nextTurn s).1 ≠ .attach →
      s.tel.framesTotal.toNat ≤ t.tel.framesTotal.toNat ∧ s.tel.eventsTotal.toNat ≤ t.tel.eventsTotal.toNat ∧
      s.tel.bytesTotal.toNat ≤ t.tel.bytesTotal.toNat ∧ s.tel.resyncCount.toNat ≤ t.tel.resyncCount.toNat ∧
      s.tel.buffullCount.toNat ≤ t.tel.buffullCount.toNat ∧ s.tel.queuePeak ≤ t.tel.queuePeak ∧
      s.queue.droppedCount.toNat ≤ t.queue.droppedCount.toNat)

/-- Who writes what: the policy registers change only by their commands, `sess` and `tx_idx` only by the SESSION agent, `acc` only
by rendering and the engine reset, the pump registers only by the pump (R22, R23, R31 to R34, R36). -/
def Obligations.RegistersHaveFixedWriters : Prop :=
  ∀ (i : Instr) (s t : State), i.wellFormed = true → exec i s = .next t →
    (t.engine.modelMode ≠ s.engine.modelMode →
      (∃ p0 p1 p2, i = .cmdCycleMode p0 p1 p2) ∨ (∃ p0 p1 p2, i = .controlDispatch 0x01 p0 p1 p2) ∨ i = .readCommand) ∧
    (t.engine.voiceMask ≠ s.engine.voiceMask →
      (∃ p0 p1 p2, i = .cmdSetVoiceMask p0 p1 p2) ∨ (∃ p0 p1 p2, i = .controlDispatch 0x02 p0 p1 p2) ∨
        i = .readCommand) ∧
    (t.engine.filterEn ≠ s.engine.filterEn →
      (∃ p0 p1 p2, i = .cmdSetFilter p0 p1 p2) ∨ (∃ p0 p1 p2, i = .controlDispatch 0x03 p0 p1 p2) ∨ i = .readCommand) ∧
    (t.engine.acc ≠ s.engine.acc → i = .renderSample ∨ i = .pumpRender ∨ i = .engineReset ∨ i = .attach) ∧
    ((t.sess ≠ s.sess ∨ t.txIdx ≠ s.txIdx) →
      i = .attach ∨ i = .txReadyByte ∨ i = .readyLine ∨ i = .detach) ∧
    (t.pump ≠ s.pump → i = .pumpAcquire ∨ i = .pumpRender ∨ i = .pumpCommit)

/-- Resynchronisation: noise in front of a magic, no window of it being the magic, is discarded byte by byte, each byte counted and
reported and none interpreted, and the scan then matches (R204, R214). -/
def Obligations.ResyncAfterNoise : Prop :=
  ∀ (s : State) (noise rest : List Byte), s.sess = .streaming → s.parser.pstate = .scanMagic →
    s.parser.buf = noise ++ rest → rest.take 4 = magic →
    (∀ k, k < noise.length → (s.parser.buf.drop k).take 4 ≠ magic) →
    ∃ t, parserRun noise.length s = t ∧ t.parser = { s.parser with buf := rest } ∧
      t.tel = { s.tel with resyncCount := t.tel.resyncCount } ∧
      t.tel.resyncCount.toNat = capped (s.tel.resyncCount.toNat + noise.length) ∧
      t.status = s.status ++ noise.map (fun b => .error (.magicLost b)) ∧
      t = { s with parser := t.parser, tel := t.tel, status := t.status } ∧
      exec .scanMagic t = .next { t with parser := { t.parser with pstate := .readHeader } }
end

