-- ==== Sys2Proof/Laws/State.lean ====
section
/-!
SUPPORT. What each primitive update of the state leaves as it was, and what it writes: true by definition, for simp, so that no
proof unfolds a record update.
-/

namespace Sys2Proof.Laws

open Sys2Proof.Machine

/-- `emit` writes the status port only. -/
@[simp] theorem emit_frame (e : StatusEvent) (s : State) :
    (emit e s).cfg = s.cfg ∧ (emit e s).sess = s.sess ∧ (emit e s).txIdx = s.txIdx ∧ (emit e s).parser = s.parser ∧
    (emit e s).queue = s.queue ∧ (emit e s).engine = s.engine ∧ (emit e s).paused = s.paused ∧
    (emit e s).pump = s.pump ∧ (emit e s).tel = s.tel ∧ (emit e s).recent = s.recent ∧ (emit e s).cellA = s.cellA ∧
    (emit e s).cellB = s.cellB ∧ (emit e s).pool = s.pool ∧ (emit e s).usb = s.usb ∧ (emit e s).ret = s.ret ∧
    (emit e s).sched = s.sched ∧ (emit e s).draws = s.draws := by
  exact ⟨rfl, rfl, rfl, rfl, rfl, rfl, rfl, rfl, rfl, rfl, rfl, rfl, rfl, rfl, rfl, rfl, rfl⟩

@[simp] theorem emit_status (e : StatusEvent) (s : State) : (emit e s).status = s.status ++ [e] := rfl

/-- `raise` writes the status port only (R290). -/
@[simp] theorem raise_frame (e : ErrorEvent) (s : State) :
    (raise e s).cfg = s.cfg ∧ (raise e s).sess = s.sess ∧ (raise e s).txIdx = s.txIdx ∧ (raise e s).parser = s.parser ∧
    (raise e s).queue = s.queue ∧ (raise e s).engine = s.engine ∧ (raise e s).paused = s.paused ∧
    (raise e s).pump = s.pump ∧ (raise e s).tel = s.tel ∧ (raise e s).recent = s.recent ∧ (raise e s).cellA = s.cellA ∧
    (raise e s).cellB = s.cellB ∧ (raise e s).pool = s.pool ∧ (raise e s).usb = s.usb ∧ (raise e s).ret = s.ret ∧
    (raise e s).sched = s.sched ∧ (raise e s).draws = s.draws := by
  exact ⟨rfl, rfl, rfl, rfl, rfl, rfl, rfl, rfl, rfl, rfl, rfl, rfl, rfl, rfl, rfl, rfl, rfl⟩

@[simp] theorem raise_status (e : ErrorEvent) (s : State) : (raise e s).status = s.status ++ [.error e] := rfl

/-- `drop_front` writes the parser only. -/
@[simp] theorem dropFront_frame (n : Nat) (s : State) :
    (dropFront n s).cfg = s.cfg ∧ (dropFront n s).sess = s.sess ∧ (dropFront n s).txIdx = s.txIdx ∧
    (dropFront n s).queue = s.queue ∧ (dropFront n s).engine = s.engine ∧ (dropFront n s).paused = s.paused ∧
    (dropFront n s).pump = s.pump ∧ (dropFront n s).tel = s.tel ∧ (dropFront n s).recent = s.recent ∧
    (dropFront n s).cellA = s.cellA ∧ (dropFront n s).cellB = s.cellB ∧ (dropFront n s).pool = s.pool ∧
    (dropFront n s).usb = s.usb ∧ (dropFront n s).status = s.status ∧ (dropFront n s).ret = s.ret ∧
    (dropFront n s).sched = s.sched ∧ (dropFront n s).draws = s.draws := by
  exact ⟨rfl, rfl, rfl, rfl, rfl, rfl, rfl, rfl, rfl, rfl, rfl, rfl, rfl, rfl, rfl, rfl, rfl⟩

@[simp] theorem dropFront_parser (n : Nat) (s : State) :
    (dropFront n s).parser = { s.parser with buf := s.parser.buf.drop n } := rfl

/-- Writing `pstate` writes the parser only. -/
@[simp] theorem setPstate_frame (p : ParserState) (s : State) :
    (setPstate p s).cfg = s.cfg ∧ (setPstate p s).sess = s.sess ∧ (setPstate p s).txIdx = s.txIdx ∧
    (setPstate p s).queue = s.queue ∧ (setPstate p s).engine = s.engine ∧ (setPstate p s).paused = s.paused ∧
    (setPstate p s).pump = s.pump ∧ (setPstate p s).tel = s.tel ∧ (setPstate p s).recent = s.recent ∧
    (setPstate p s).cellA = s.cellA ∧ (setPstate p s).cellB = s.cellB ∧ (setPstate p s).pool = s.pool ∧
    (setPstate p s).usb = s.usb ∧ (setPstate p s).status = s.status ∧ (setPstate p s).ret = s.ret ∧
    (setPstate p s).sched = s.sched ∧ (setPstate p s).draws = s.draws := by
  exact ⟨rfl, rfl, rfl, rfl, rfl, rfl, rfl, rfl, rfl, rfl, rfl, rfl, rfl, rfl, rfl, rfl, rfl⟩

@[simp] theorem setPstate_parser (p : ParserState) (s : State) :
    (setPstate p s).parser = { s.parser with pstate := p } := rfl

/-- Counting a lost byte writes telemetry only. -/
@[simp] theorem countResync_frame (s : State) :
    (countResync s).cfg = s.cfg ∧ (countResync s).sess = s.sess ∧ (countResync s).txIdx = s.txIdx ∧
    (countResync s).parser = s.parser ∧ (countResync s).queue = s.queue ∧ (countResync s).engine = s.engine ∧
    (countResync s).paused = s.paused ∧ (countResync s).pump = s.pump ∧ (countResync s).recent = s.recent ∧
    (countResync s).cellA = s.cellA ∧ (countResync s).cellB = s.cellB ∧ (countResync s).pool = s.pool ∧
    (countResync s).usb = s.usb ∧ (countResync s).status = s.status ∧ (countResync s).ret = s.ret ∧
    (countResync s).sched = s.sched ∧ (countResync s).draws = s.draws := by
  exact ⟨rfl, rfl, rfl, rfl, rfl, rfl, rfl, rfl, rfl, rfl, rfl, rfl, rfl, rfl, rfl, rfl, rfl⟩

@[simp] theorem countResync_tel (s : State) :
    (countResync s).tel = { s.tel with resyncCount := satinc32 s.tel.resyncCount } := rfl

/-- Writing a delta writes the queue only. -/
@[simp] theorem setRingDelta_frame (i : Nat) (d : Word32) (s : State) :
    (setRingDelta i d s).cfg = s.cfg ∧ (setRingDelta i d s).sess = s.sess ∧ (setRingDelta i d s).txIdx = s.txIdx ∧
    (setRingDelta i d s).parser = s.parser ∧ (setRingDelta i d s).engine = s.engine ∧
    (setRingDelta i d s).paused = s.paused ∧ (setRingDelta i d s).pump = s.pump ∧ (setRingDelta i d s).tel = s.tel ∧
    (setRingDelta i d s).recent = s.recent ∧ (setRingDelta i d s).cellA = s.cellA ∧
    (setRingDelta i d s).cellB = s.cellB ∧ (setRingDelta i d s).pool = s.pool ∧ (setRingDelta i d s).usb = s.usb ∧
    (setRingDelta i d s).status = s.status ∧ (setRingDelta i d s).ret = s.ret ∧ (setRingDelta i d s).sched = s.sched ∧
    (setRingDelta i d s).draws = s.draws := by
  exact ⟨rfl, rfl, rfl, rfl, rfl, rfl, rfl, rfl, rfl, rfl, rfl, rfl, rfl, rfl, rfl, rfl, rfl⟩

@[simp] theorem setRingDelta_queue (i : Nat) (d : Word32) (s : State) :
    (setRingDelta i d s).queue = { s.queue with ring := memWrite s.queue.ring i { ringAt s i with delta := d } } := rfl

/-- Answering writes the port's register only. -/
@[simp] theorem answer_frame (v : PortValue) (s : State) :
    (answer v s).cfg = s.cfg ∧ (answer v s).sess = s.sess ∧ (answer v s).txIdx = s.txIdx ∧
    (answer v s).parser = s.parser ∧ (answer v s).queue = s.queue ∧ (answer v s).engine = s.engine ∧
    (answer v s).paused = s.paused ∧ (answer v s).pump = s.pump ∧ (answer v s).tel = s.tel ∧
    (answer v s).recent = s.recent ∧ (answer v s).cellA = s.cellA ∧ (answer v s).cellB = s.cellB ∧
    (answer v s).pool = s.pool ∧ (answer v s).usb = s.usb ∧ (answer v s).status = s.status ∧
    (answer v s).sched = s.sched ∧ (answer v s).draws = s.draws := by
  exact ⟨rfl, rfl, rfl, rfl, rfl, rfl, rfl, rfl, rfl, rfl, rfl, rfl, rfl, rfl, rfl, rfl, rfl⟩

@[simp] theorem answer_ret (v : PortValue) (s : State) : (answer v s).ret = v := rfl

/-- A call on a cell writes the cells only. -/
@[simp] theorem callCell_frame (c : CellId) (k : CellCall) (s : State) :
    (callCell c k s).cfg = s.cfg ∧ (callCell c k s).sess = s.sess ∧ (callCell c k s).txIdx = s.txIdx ∧
    (callCell c k s).parser = s.parser ∧ (callCell c k s).queue = s.queue ∧ (callCell c k s).engine = s.engine ∧
    (callCell c k s).paused = s.paused ∧ (callCell c k s).pump = s.pump ∧ (callCell c k s).tel = s.tel ∧
    (callCell c k s).recent = s.recent ∧ (callCell c k s).pool = s.pool ∧ (callCell c k s).usb = s.usb ∧
    (callCell c k s).status = s.status ∧ (callCell c k s).ret = s.ret ∧ (callCell c k s).sched = s.sched ∧
    (callCell c k s).draws = s.draws := by
  cases c <;> exact ⟨rfl, rfl, rfl, rfl, rfl, rfl, rfl, rfl, rfl, rfl, rfl, rfl, rfl, rfl, rfl, rfl⟩

@[simp] theorem callCell_a (k : CellCall) (s : State) :
    (callCell .a k s).cellA = { s.cellA with trace := s.cellA.trace ++ [k] } ∧ (callCell .a k s).cellB = s.cellB := ⟨rfl, rfl⟩

@[simp] theorem callCell_b (k : CellCall) (s : State) :
    (callCell .b k s).cellB = { s.cellB with trace := s.cellB.trace ++ [k] } ∧ (callCell .b k s).cellA = s.cellA := ⟨rfl, rfl⟩

/-- `flow_update` writes `paused` only (R246). -/
@[simp] theorem flowUpdate_frame (s : State) :
    (flowUpdate s).cfg = s.cfg ∧ (flowUpdate s).sess = s.sess ∧ (flowUpdate s).txIdx = s.txIdx ∧
    (flowUpdate s).parser = s.parser ∧ (flowUpdate s).queue = s.queue ∧ (flowUpdate s).engine = s.engine ∧
    (flowUpdate s).pump = s.pump ∧ (flowUpdate s).tel = s.tel ∧ (flowUpdate s).recent = s.recent ∧
    (flowUpdate s).cellA = s.cellA ∧ (flowUpdate s).cellB = s.cellB ∧ (flowUpdate s).pool = s.pool ∧
    (flowUpdate s).usb = s.usb ∧ (flowUpdate s).status = s.status ∧ (flowUpdate s).ret = s.ret ∧
    (flowUpdate s).sched = s.sched ∧ (flowUpdate s).draws = s.draws := by
  exact ⟨rfl, rfl, rfl, rfl, rfl, rfl, rfl, rfl, rfl, rfl, rfl, rfl, rfl, rfl, rfl, rfl, rfl⟩

@[simp] theorem flowUpdate_paused (s : State) : (flowUpdate s).paused = pausedAt s.cfg s.paused s.queue.count := rfl

/-- The store of `push` writes the queue and `queue_peak` only. -/
@[simp] theorem storeTail_frame (e : Event) (s : State) :
    (storeTail e s).cfg = s.cfg ∧ (storeTail e s).sess = s.sess ∧ (storeTail e s).txIdx = s.txIdx ∧
    (storeTail e s).parser = s.parser ∧ (storeTail e s).engine = s.engine ∧ (storeTail e s).paused = s.paused ∧
    (storeTail e s).pump = s.pump ∧ (storeTail e s).recent = s.recent ∧ (storeTail e s).cellA = s.cellA ∧
    (storeTail e s).cellB = s.cellB ∧ (storeTail e s).pool = s.pool ∧ (storeTail e s).usb = s.usb ∧
    (storeTail e s).status = s.status ∧ (storeTail e s).ret = s.ret ∧ (storeTail e s).sched = s.sched ∧
    (storeTail e s).draws = s.draws := by
  exact ⟨rfl, rfl, rfl, rfl, rfl, rfl, rfl, rfl, rfl, rfl, rfl, rfl, rfl, rfl, rfl, rfl⟩

@[simp] theorem storeTail_queue (e : Event) (s : State) :
    (storeTail e s).queue =
      { s.queue with
        ring := memWrite s.queue.ring s.queue.tail e, tail := ringNext s s.queue.tail, count := s.queue.count + 1 } := rfl

@[simp] theorem storeTail_tel (e : Event) (s : State) :
    (storeTail e s).tel = { s.tel with queuePeak := max s.tel.queuePeak (s.queue.count + 1) } := rfl

/-- `pop` writes the queue and `paused` only (R183). -/
@[simp] theorem popHead_frame (s : State) :
    (popHead s).cfg = s.cfg ∧ (popHead s).sess = s.sess ∧ (popHead s).txIdx = s.txIdx ∧ (popHead s).parser = s.parser ∧
    (popHead s).engine = s.engine ∧ (popHead s).pump = s.pump ∧ (popHead s).tel = s.tel ∧
    (popHead s).recent = s.recent ∧ (popHead s).cellA = s.cellA ∧ (popHead s).cellB = s.cellB ∧
    (popHead s).pool = s.pool ∧ (popHead s).usb = s.usb ∧ (popHead s).status = s.status ∧ (popHead s).ret = s.ret ∧
    (popHead s).sched = s.sched ∧ (popHead s).draws = s.draws := by
  exact ⟨rfl, rfl, rfl, rfl, rfl, rfl, rfl, rfl, rfl, rfl, rfl, rfl, rfl, rfl, rfl, rfl⟩

@[simp] theorem popHead_queue (s : State) :
    (popHead s).queue = { s.queue with head := ringNext s s.queue.head, count := s.queue.count - 1 } := rfl

@[simp] theorem popHead_paused (s : State) : (popHead s).paused = pausedAt s.cfg s.paused (s.queue.count - 1) := rfl

/-- The queue's `reset` writes the queue and `paused` only (R186). -/
@[simp] theorem queueReset_frame (s : State) :
    (queueReset s).cfg = s.cfg ∧ (queueReset s).sess = s.sess ∧ (queueReset s).txIdx = s.txIdx ∧
    (queueReset s).parser = s.parser ∧ (queueReset s).engine = s.engine ∧ (queueReset s).pump = s.pump ∧
    (queueReset s).tel = s.tel ∧ (queueReset s).recent = s.recent ∧ (queueReset s).cellA = s.cellA ∧
    (queueReset s).cellB = s.cellB ∧ (queueReset s).pool = s.pool ∧ (queueReset s).usb = s.usb ∧
    (queueReset s).status = s.status ∧ (queueReset s).ret = s.ret ∧ (queueReset s).sched = s.sched ∧
    (queueReset s).draws = s.draws := by
  exact ⟨rfl, rfl, rfl, rfl, rfl, rfl, rfl, rfl, rfl, rfl, rfl, rfl, rfl, rfl, rfl, rfl⟩

@[simp] theorem queueReset_queue (s : State) : (queueReset s).queue = { s.queue with head := 0, tail := 0, count := 0 } := rfl

@[simp] theorem queueReset_paused (s : State) : (queueReset s).paused = pausedAt s.cfg s.paused 0 := rfl

/-- `consume_cycles` writes the queue only (R192). -/
@[simp] theorem consumeCycles_frame (run : Nat) (s : State) :
    (consumeCycles run s).cfg = s.cfg ∧ (consumeCycles run s).sess = s.sess ∧ (consumeCycles run s).txIdx = s.txIdx ∧
    (consumeCycles run s).parser = s.parser ∧ (consumeCycles run s).engine = s.engine ∧
    (consumeCycles run s).paused = s.paused ∧ (consumeCycles run s).pump = s.pump ∧ (consumeCycles run s).tel = s.tel ∧
    (consumeCycles run s).recent = s.recent ∧ (consumeCycles run s).cellA = s.cellA ∧
    (consumeCycles run s).cellB = s.cellB ∧ (consumeCycles run s).pool = s.pool ∧ (consumeCycles run s).usb = s.usb ∧
    (consumeCycles run s).status = s.status ∧ (consumeCycles run s).ret = s.ret ∧
    (consumeCycles run s).sched = s.sched ∧ (consumeCycles run s).draws = s.draws := by
  exact ⟨rfl, rfl, rfl, rfl, rfl, rfl, rfl, rfl, rfl, rfl, rfl, rfl, rfl, rfl, rfl, rfl, rfl⟩

/-- `drift_update` writes telemetry only (R257). -/
@[simp] theorem driftUpdate_frame (f : Word32) (s : State) :
    (driftUpdate f s).cfg = s.cfg ∧ (driftUpdate f s).sess = s.sess ∧ (driftUpdate f s).txIdx = s.txIdx ∧
    (driftUpdate f s).parser = s.parser ∧ (driftUpdate f s).queue = s.queue ∧ (driftUpdate f s).engine = s.engine ∧
    (driftUpdate f s).paused = s.paused ∧ (driftUpdate f s).pump = s.pump ∧ (driftUpdate f s).recent = s.recent ∧
    (driftUpdate f s).cellA = s.cellA ∧ (driftUpdate f s).cellB = s.cellB ∧ (driftUpdate f s).pool = s.pool ∧
    (driftUpdate f s).usb = s.usb ∧ (driftUpdate f s).status = s.status ∧ (driftUpdate f s).ret = s.ret ∧
    (driftUpdate f s).sched = s.sched ∧ (driftUpdate f s).draws = s.draws := by
  exact ⟨rfl, rfl, rfl, rfl, rfl, rfl, rfl, rfl, rfl, rfl, rfl, rfl, rfl, rfl, rfl, rfl, rfl⟩

/-- The sums of `frame_done` write telemetry only. -/
@[simp] theorem accountFrame_frame (s : State) :
    (accountFrame s).cfg = s.cfg ∧ (accountFrame s).sess = s.sess ∧ (accountFrame s).txIdx = s.txIdx ∧
    (accountFrame s).parser = s.parser ∧ (accountFrame s).queue = s.queue ∧ (accountFrame s).engine = s.engine ∧
    (accountFrame s).paused = s.paused ∧ (accountFrame s).pump = s.pump ∧ (accountFrame s).recent = s.recent ∧
    (accountFrame s).cellA = s.cellA ∧ (accountFrame s).cellB = s.cellB ∧ (accountFrame s).pool = s.pool ∧
    (accountFrame s).usb = s.usb ∧ (accountFrame s).status = s.status ∧ (accountFrame s).ret = s.ret ∧
    (accountFrame s).sched = s.sched ∧ (accountFrame s).draws = s.draws := by
  exact ⟨rfl, rfl, rfl, rfl, rfl, rfl, rfl, rfl, rfl, rfl, rfl, rfl, rfl, rfl, rfl, rfl, rfl⟩

/-- `frame_done` writes telemetry and the status port only (R256). -/
@[simp] theorem frameDone_frame (s : State) :
    (frameDone s).cfg = s.cfg ∧ (frameDone s).sess = s.sess ∧ (frameDone s).txIdx = s.txIdx ∧
    (frameDone s).parser = s.parser ∧ (frameDone s).queue = s.queue ∧ (frameDone s).engine = s.engine ∧
    (frameDone s).paused = s.paused ∧ (frameDone s).pump = s.pump ∧ (frameDone s).recent = s.recent ∧
    (frameDone s).cellA = s.cellA ∧ (frameDone s).cellB = s.cellB ∧ (frameDone s).pool = s.pool ∧
    (frameDone s).usb = s.usb ∧ (frameDone s).ret = s.ret ∧ (frameDone s).sched = s.sched ∧
    (frameDone s).draws = s.draws := by
  exact ⟨rfl, rfl, rfl, rfl, rfl, rfl, rfl, rfl, rfl, rfl, rfl, rfl, rfl, rfl, rfl, rfl⟩

/-- `frame_start` writes the parser and the status port only (R209). -/
@[simp] theorem frameStart_frame (c f : Word32) (s : State) :
    (frameStart c f s).cfg = s.cfg ∧ (frameStart c f s).sess = s.sess ∧ (frameStart c f s).txIdx = s.txIdx ∧
    (frameStart c f s).queue = s.queue ∧ (frameStart c f s).engine = s.engine ∧ (frameStart c f s).paused = s.paused ∧
    (frameStart c f s).pump = s.pump ∧ (frameStart c f s).tel = s.tel ∧ (frameStart c f s).recent = s.recent ∧
    (frameStart c f s).cellA = s.cellA ∧ (frameStart c f s).cellB = s.cellB ∧ (frameStart c f s).pool = s.pool ∧
    (frameStart c f s).usb = s.usb ∧ (frameStart c f s).ret = s.ret ∧ (frameStart c f s).sched = s.sched ∧
    (frameStart c f s).draws = s.draws := by
  exact ⟨rfl, rfl, rfl, rfl, rfl, rfl, rfl, rfl, rfl, rfl, rfl, rfl, rfl, rfl, rfl, rfl⟩

@[simp] theorem frameStart_parser (c f : Word32) (s : State) :
    (frameStart c f s).parser =
      { s.parser with
        curCount := c, curFrame := f, frameEvents := 0, frameBytes := BitVec.ofNat 32 s.cfg.hdr.len, evLeft := 0 } := rfl

@[simp] theorem frameStart_status (c f : Word32) (s : State) : (frameStart c f s).status = s.status ++ [.frameStart f] := rfl

@[simp] theorem frameDone_status (s : State) :
    (frameDone s).status = s.status ++ [.frameDone s.parser.curFrame s.parser.frameEvents s.parser.frameBytes] := rfl

/-- SET_VOICE_MASK writes the engine only (R232). -/
@[simp] theorem setVoiceMask_frame (m : Byte) (s : State) :
    (setVoiceMask m s).cfg = s.cfg ∧ (setVoiceMask m s).sess = s.sess ∧ (setVoiceMask m s).txIdx = s.txIdx ∧
    (setVoiceMask m s).parser = s.parser ∧ (setVoiceMask m s).queue = s.queue ∧ (setVoiceMask m s).paused = s.paused ∧
    (setVoiceMask m s).pump = s.pump ∧ (setVoiceMask m s).tel = s.tel ∧ (setVoiceMask m s).recent = s.recent ∧
    (setVoiceMask m s).cellA = s.cellA ∧ (setVoiceMask m s).cellB = s.cellB ∧ (setVoiceMask m s).pool = s.pool ∧
    (setVoiceMask m s).usb = s.usb ∧ (setVoiceMask m s).status = s.status ∧ (setVoiceMask m s).ret = s.ret ∧
    (setVoiceMask m s).sched = s.sched ∧ (setVoiceMask m s).draws = s.draws := by
  exact ⟨rfl, rfl, rfl, rfl, rfl, rfl, rfl, rfl, rfl, rfl, rfl, rfl, rfl, rfl, rfl, rfl, rfl⟩

/-- SET_FILTER writes the engine only (R233). -/
@[simp] theorem setFilter_frame (m : Byte) (s : State) :
    (setFilter m s).cfg = s.cfg ∧ (setFilter m s).sess = s.sess ∧ (setFilter m s).txIdx = s.txIdx ∧
    (setFilter m s).parser = s.parser ∧ (setFilter m s).queue = s.queue ∧ (setFilter m s).paused = s.paused ∧
    (setFilter m s).pump = s.pump ∧ (setFilter m s).tel = s.tel ∧ (setFilter m s).recent = s.recent ∧
    (setFilter m s).cellA = s.cellA ∧ (setFilter m s).cellB = s.cellB ∧ (setFilter m s).pool = s.pool ∧
    (setFilter m s).usb = s.usb ∧ (setFilter m s).status = s.status ∧ (setFilter m s).ret = s.ret ∧
    (setFilter m s).sched = s.sched ∧ (setFilter m s).draws = s.draws := by
  exact ⟨rfl, rfl, rfl, rfl, rfl, rfl, rfl, rfl, rfl, rfl, rfl, rfl, rfl, rfl, rfl, rfl, rfl⟩

/-- `parser_reset` writes the parser only (R210). -/
@[simp] theorem parserReset_frame (s : State) :
    (parserReset s).cfg = s.cfg ∧ (parserReset s).sess = s.sess ∧ (parserReset s).txIdx = s.txIdx ∧
    (parserReset s).queue = s.queue ∧ (parserReset s).engine = s.engine ∧ (parserReset s).paused = s.paused ∧
    (parserReset s).pump = s.pump ∧ (parserReset s).tel = s.tel ∧ (parserReset s).recent = s.recent ∧
    (parserReset s).cellA = s.cellA ∧ (parserReset s).cellB = s.cellB ∧ (parserReset s).pool = s.pool ∧
    (parserReset s).usb = s.usb ∧ (parserReset s).status = s.status ∧ (parserReset s).ret = s.ret ∧
    (parserReset s).sched = s.sched ∧ (parserReset s).draws = s.draws := by
  exact ⟨rfl, rfl, rfl, rfl, rfl, rfl, rfl, rfl, rfl, rfl, rfl, rfl, rfl, rfl, rfl, rfl, rfl⟩

@[simp] theorem parserReset_parser (s : State) : (parserReset s).parser = {} := rfl

/-- `recent_capture` writes the recent-bytes ring only (R203). -/
@[simp] theorem recentCapture_frame (b : Byte) (s : State) :
    (recentCapture b s).cfg = s.cfg ∧ (recentCapture b s).sess = s.sess ∧ (recentCapture b s).txIdx = s.txIdx ∧
    (recentCapture b s).parser = s.parser ∧ (recentCapture b s).queue = s.queue ∧
    (recentCapture b s).engine = s.engine ∧ (recentCapture b s).paused = s.paused ∧ (recentCapture b s).pump = s.pump ∧
    (recentCapture b s).tel = s.tel ∧ (recentCapture b s).cellA = s.cellA ∧ (recentCapture b s).cellB = s.cellB ∧
    (recentCapture b s).pool = s.pool ∧ (recentCapture b s).usb = s.usb ∧ (recentCapture b s).status = s.status ∧
    (recentCapture b s).ret = s.ret ∧ (recentCapture b s).sched = s.sched ∧ (recentCapture b s).draws = s.draws := by
  exact ⟨rfl, rfl, rfl, rfl, rfl, rfl, rfl, rfl, rfl, rfl, rfl, rfl, rfl, rfl, rfl, rfl, rfl⟩

/-- Appending to `BUF` writes the parser only. -/
@[simp] theorem appendBuf_frame (b : Byte) (s : State) :
    (appendBuf b s).cfg = s.cfg ∧ (appendBuf b s).sess = s.sess ∧ (appendBuf b s).txIdx = s.txIdx ∧
    (appendBuf b s).queue = s.queue ∧ (appendBuf b s).engine = s.engine ∧ (appendBuf b s).paused = s.paused ∧
    (appendBuf b s).pump = s.pump ∧ (appendBuf b s).tel = s.tel ∧ (appendBuf b s).recent = s.recent ∧
    (appendBuf b s).cellA = s.cellA ∧ (appendBuf b s).cellB = s.cellB ∧ (appendBuf b s).pool = s.pool ∧
    (appendBuf b s).usb = s.usb ∧ (appendBuf b s).status = s.status ∧ (appendBuf b s).ret = s.ret ∧
    (appendBuf b s).sched = s.sched ∧ (appendBuf b s).draws = s.draws := by
  exact ⟨rfl, rfl, rfl, rfl, rfl, rfl, rfl, rfl, rfl, rfl, rfl, rfl, rfl, rfl, rfl, rfl, rfl⟩

@[simp] theorem appendBuf_parser (b : Byte) (s : State) :
    (appendBuf b s).parser = { s.parser with buf := s.parser.buf ++ [b] } := rfl

/-- `buffer_full` writes the parser's buffer, telemetry and the status port only (R202). -/
@[simp] theorem bufferFull_frame (s : State) :
    (bufferFull s).cfg = s.cfg ∧ (bufferFull s).sess = s.sess ∧ (bufferFull s).txIdx = s.txIdx ∧
    (bufferFull s).queue = s.queue ∧ (bufferFull s).engine = s.engine ∧ (bufferFull s).paused = s.paused ∧
    (bufferFull s).pump = s.pump ∧ (bufferFull s).recent = s.recent ∧ (bufferFull s).cellA = s.cellA ∧
    (bufferFull s).cellB = s.cellB ∧ (bufferFull s).pool = s.pool ∧ (bufferFull s).usb = s.usb ∧
    (bufferFull s).ret = s.ret ∧ (bufferFull s).sched = s.sched ∧ (bufferFull s).draws = s.draws := by
  exact ⟨rfl, rfl, rfl, rfl, rfl, rfl, rfl, rfl, rfl, rfl, rfl, rfl, rfl, rfl, rfl⟩

/-- Changing a buffer writes the pool only. -/
@[simp] theorem setBuffer_frame (b : Nat) (f : Buffer → Buffer) (s : State) :
    (setBuffer b f s).cfg = s.cfg ∧ (setBuffer b f s).sess = s.sess ∧ (setBuffer b f s).txIdx = s.txIdx ∧
    (setBuffer b f s).parser = s.parser ∧ (setBuffer b f s).queue = s.queue ∧ (setBuffer b f s).engine = s.engine ∧
    (setBuffer b f s).paused = s.paused ∧ (setBuffer b f s).pump = s.pump ∧ (setBuffer b f s).tel = s.tel ∧
    (setBuffer b f s).recent = s.recent ∧ (setBuffer b f s).cellA = s.cellA ∧ (setBuffer b f s).cellB = s.cellB ∧
    (setBuffer b f s).usb = s.usb ∧ (setBuffer b f s).status = s.status ∧ (setBuffer b f s).ret = s.ret ∧
    (setBuffer b f s).sched = s.sched ∧ (setBuffer b f s).draws = s.draws := by
  exact ⟨rfl, rfl, rfl, rfl, rfl, rfl, rfl, rfl, rfl, rfl, rfl, rfl, rfl, rfl, rfl, rfl, rfl⟩

/-- Taking a buffer writes the pool only (R165). -/
@[simp] theorem takeBuffer_frame (b : Nat) (s : State) :
    (takeBuffer b s).cfg = s.cfg ∧ (takeBuffer b s).sess = s.sess ∧ (takeBuffer b s).txIdx = s.txIdx ∧
    (takeBuffer b s).parser = s.parser ∧ (takeBuffer b s).queue = s.queue ∧ (takeBuffer b s).engine = s.engine ∧
    (takeBuffer b s).paused = s.paused ∧ (takeBuffer b s).pump = s.pump ∧ (takeBuffer b s).tel = s.tel ∧
    (takeBuffer b s).recent = s.recent ∧ (takeBuffer b s).cellA = s.cellA ∧ (takeBuffer b s).cellB = s.cellB ∧
    (takeBuffer b s).usb = s.usb ∧ (takeBuffer b s).status = s.status ∧ (takeBuffer b s).ret = s.ret ∧
    (takeBuffer b s).sched = s.sched ∧ (takeBuffer b s).draws = s.draws := by
  exact ⟨rfl, rfl, rfl, rfl, rfl, rfl, rfl, rfl, rfl, rfl, rfl, rfl, rfl, rfl, rfl, rfl, rfl⟩

/-- Giving a buffer writes the pool only (R165). -/
@[simp] theorem giveFull_frame (b : Nat) (s : State) :
    (giveFull b s).cfg = s.cfg ∧ (giveFull b s).sess = s.sess ∧ (giveFull b s).txIdx = s.txIdx ∧
    (giveFull b s).parser = s.parser ∧ (giveFull b s).queue = s.queue ∧ (giveFull b s).engine = s.engine ∧
    (giveFull b s).paused = s.paused ∧ (giveFull b s).pump = s.pump ∧ (giveFull b s).tel = s.tel ∧
    (giveFull b s).recent = s.recent ∧ (giveFull b s).cellA = s.cellA ∧ (giveFull b s).cellB = s.cellB ∧
    (giveFull b s).usb = s.usb ∧ (giveFull b s).status = s.status ∧ (giveFull b s).ret = s.ret ∧
    (giveFull b s).sched = s.sched ∧ (giveFull b s).draws = s.draws := by
  exact ⟨rfl, rfl, rfl, rfl, rfl, rfl, rfl, rfl, rfl, rfl, rfl, rfl, rfl, rfl, rfl, rfl, rfl⟩

end Sys2Proof.Laws
end

