-- ==== Sys2Proof/Laws/Frames.lean ====
section
/-!
SUPPORT. What each shared operation leaves as it was: the frame lemma of every composite operation, for simp, so that the
operation is unfolded for its frame here and nowhere else.
-/

namespace Sys2Proof.Laws

open Sys2Proof.Machine

/-- Calls on a cell write the cells only. -/
@[simp] theorem callCells_frame (c : CellId) (ks : List CellCall) (s : State) :
    (callCells c ks s).cfg = s.cfg ∧ (callCells c ks s).sess = s.sess ∧ (callCells c ks s).txIdx = s.txIdx ∧
    (callCells c ks s).parser = s.parser ∧ (callCells c ks s).queue = s.queue ∧ (callCells c ks s).engine = s.engine ∧
    (callCells c ks s).paused = s.paused ∧ (callCells c ks s).pump = s.pump ∧ (callCells c ks s).tel = s.tel ∧
    (callCells c ks s).recent = s.recent ∧ (callCells c ks s).pool = s.pool ∧ (callCells c ks s).usb = s.usb ∧
    (callCells c ks s).status = s.status ∧ (callCells c ks s).ret = s.ret ∧ (callCells c ks s).sched = s.sched ∧
    (callCells c ks s).draws = s.draws := by
  induction ks generalizing s with
  | nil => simp [callCells]
  | cons k ks ih =>
    have h := ih (callCell c k s)
    simpa [callCells] using h

/-- `drop_oldest` writes the queue and the status port only (R182). -/
@[simp] theorem dropOldest_frame (s : State) :
    (dropOldest s).cfg = s.cfg ∧ (dropOldest s).sess = s.sess ∧ (dropOldest s).txIdx = s.txIdx ∧
    (dropOldest s).parser = s.parser ∧ (dropOldest s).engine = s.engine ∧ (dropOldest s).paused = s.paused ∧
    (dropOldest s).pump = s.pump ∧ (dropOldest s).tel = s.tel ∧ (dropOldest s).recent = s.recent ∧
    (dropOldest s).cellA = s.cellA ∧ (dropOldest s).cellB = s.cellB ∧ (dropOldest s).pool = s.pool ∧
    (dropOldest s).usb = s.usb ∧ (dropOldest s).ret = s.ret ∧ (dropOldest s).sched = s.sched ∧
    (dropOldest s).draws = s.draws := by
  unfold dropOldest; dsimp only; split <;> simp

/-- `push` writes the queue, `queue_peak`, `paused` and the status port only (R181). -/
@[simp] theorem push_frame (e : Event) (s : State) :
    (push e s).cfg = s.cfg ∧ (push e s).sess = s.sess ∧ (push e s).txIdx = s.txIdx ∧ (push e s).parser = s.parser ∧
    (push e s).engine = s.engine ∧ (push e s).pump = s.pump ∧ (push e s).recent = s.recent ∧
    (push e s).cellA = s.cellA ∧ (push e s).cellB = s.cellB ∧ (push e s).pool = s.pool ∧ (push e s).usb = s.usb ∧
    (push e s).ret = s.ret ∧ (push e s).sched = s.sched ∧ (push e s).draws = s.draws := by
  unfold push; split <;> simp

/-- `cell_write` writes the cells only (R143). -/
@[simp] theorem cellWrite_frame (c : CellId) (a : SidAddr) (v : Byte) (s : State) :
    (cellWrite c a v s).cfg = s.cfg ∧ (cellWrite c a v s).sess = s.sess ∧ (cellWrite c a v s).txIdx = s.txIdx ∧
    (cellWrite c a v s).parser = s.parser ∧ (cellWrite c a v s).queue = s.queue ∧
    (cellWrite c a v s).engine = s.engine ∧ (cellWrite c a v s).paused = s.paused ∧ (cellWrite c a v s).pump = s.pump ∧
    (cellWrite c a v s).tel = s.tel ∧ (cellWrite c a v s).recent = s.recent ∧ (cellWrite c a v s).pool = s.pool ∧
    (cellWrite c a v s).usb = s.usb ∧ (cellWrite c a v s).status = s.status ∧ (cellWrite c a v s).ret = s.ret ∧
    (cellWrite c a v s).sched = s.sched ∧ (cellWrite c a v s).draws = s.draws := by
  unfold cellWrite; split <;> simp

/-- A selected write writes the cells only. -/
@[simp] theorem cellWriteIf_frame (e : Event) (c : CellId) (s : State) :
    (cellWriteIf e c s).cfg = s.cfg ∧ (cellWriteIf e c s).sess = s.sess ∧ (cellWriteIf e c s).txIdx = s.txIdx ∧
    (cellWriteIf e c s).parser = s.parser ∧ (cellWriteIf e c s).queue = s.queue ∧
    (cellWriteIf e c s).engine = s.engine ∧ (cellWriteIf e c s).paused = s.paused ∧ (cellWriteIf e c s).pump = s.pump ∧
    (cellWriteIf e c s).tel = s.tel ∧ (cellWriteIf e c s).recent = s.recent ∧ (cellWriteIf e c s).pool = s.pool ∧
    (cellWriteIf e c s).usb = s.usb ∧ (cellWriteIf e c s).status = s.status ∧ (cellWriteIf e c s).ret = s.ret ∧
    (cellWriteIf e c s).sched = s.sched ∧ (cellWriteIf e c s).draws = s.draws := by
  unfold cellWriteIf; split <;> simp

/-- `apply_event` writes the cells only (R142). -/
@[simp] theorem applyEvent_frame (e : Event) (s : State) :
    (applyEvent e s).cfg = s.cfg ∧ (applyEvent e s).sess = s.sess ∧ (applyEvent e s).txIdx = s.txIdx ∧
    (applyEvent e s).parser = s.parser ∧ (applyEvent e s).queue = s.queue ∧ (applyEvent e s).engine = s.engine ∧
    (applyEvent e s).paused = s.paused ∧ (applyEvent e s).pump = s.pump ∧ (applyEvent e s).tel = s.tel ∧
    (applyEvent e s).recent = s.recent ∧ (applyEvent e s).pool = s.pool ∧ (applyEvent e s).usb = s.usb ∧
    (applyEvent e s).status = s.status ∧ (applyEvent e s).ret = s.ret ∧ (applyEvent e s).sched = s.sched ∧
    (applyEvent e s).draws = s.draws := by
  simp [applyEvent]

/-- Draining writes the queue, `paused` and the cells only (R144). -/
@[simp] theorem drainLoop_frame (n : Nat) (s : State) :
    (drainLoop n s).cfg = s.cfg ∧ (drainLoop n s).sess = s.sess ∧ (drainLoop n s).txIdx = s.txIdx ∧
    (drainLoop n s).parser = s.parser ∧ (drainLoop n s).engine = s.engine ∧ (drainLoop n s).pump = s.pump ∧
    (drainLoop n s).tel = s.tel ∧ (drainLoop n s).recent = s.recent ∧ (drainLoop n s).pool = s.pool ∧
    (drainLoop n s).usb = s.usb ∧ (drainLoop n s).status = s.status ∧ (drainLoop n s).ret = s.ret ∧
    (drainLoop n s).sched = s.sched ∧ (drainLoop n s).draws = s.draws := by
  induction n generalizing s with
  | zero => simp [drainLoop]
  | succ n ih => unfold drainLoop; split <;> simp [ih]

/-- `drain_zero` writes the queue, `paused` and the cells only (R144). -/
@[simp] theorem drainZero_frame (s : State) :
    (drainZero s).cfg = s.cfg ∧ (drainZero s).sess = s.sess ∧ (drainZero s).txIdx = s.txIdx ∧
    (drainZero s).parser = s.parser ∧ (drainZero s).engine = s.engine ∧ (drainZero s).pump = s.pump ∧
    (drainZero s).tel = s.tel ∧ (drainZero s).recent = s.recent ∧ (drainZero s).pool = s.pool ∧
    (drainZero s).usb = s.usb ∧ (drainZero s).status = s.status ∧ (drainZero s).ret = s.ret ∧
    (drainZero s).sched = s.sched ∧ (drainZero s).draws = s.draws := by
  simp [drainZero]

/-- Step 1 of a render writes the engine and the status port only (R137). -/
@[simp] theorem takeBudget_frame (s : State) :
    (takeBudget s).cfg = s.cfg ∧ (takeBudget s).sess = s.sess ∧ (takeBudget s).txIdx = s.txIdx ∧
    (takeBudget s).parser = s.parser ∧ (takeBudget s).queue = s.queue ∧ (takeBudget s).paused = s.paused ∧
    (takeBudget s).pump = s.pump ∧ (takeBudget s).tel = s.tel ∧ (takeBudget s).recent = s.recent ∧
    (takeBudget s).cellA = s.cellA ∧ (takeBudget s).cellB = s.cellB ∧ (takeBudget s).pool = s.pool ∧
    (takeBudget s).usb = s.usb ∧ (takeBudget s).ret = s.ret ∧ (takeBudget s).sched = s.sched ∧
    (takeBudget s).draws = s.draws := by
  unfold takeBudget; dsimp only; split <;> simp

/-- Clocking writes the cells only. -/
@[simp] theorem clockBoth_frame (n : Nat) (s : State) :
    (clockBoth n s).cfg = s.cfg ∧ (clockBoth n s).sess = s.sess ∧ (clockBoth n s).txIdx = s.txIdx ∧
    (clockBoth n s).parser = s.parser ∧ (clockBoth n s).queue = s.queue ∧ (clockBoth n s).engine = s.engine ∧
    (clockBoth n s).paused = s.paused ∧ (clockBoth n s).pump = s.pump ∧ (clockBoth n s).tel = s.tel ∧
    (clockBoth n s).recent = s.recent ∧ (clockBoth n s).pool = s.pool ∧ (clockBoth n s).usb = s.usb ∧
    (clockBoth n s).status = s.status ∧ (clockBoth n s).ret = s.ret ∧ (clockBoth n s).sched = s.sched ∧
    (clockBoth n s).draws = s.draws := by
  simp [clockBoth]

/-- The segment loop writes the queue, `paused` and the cells only (R139). -/
@[simp] theorem segments_frame (n k : Nat) (s : State) :
    (segments n k s).cfg = s.cfg ∧ (segments n k s).sess = s.sess ∧ (segments n k s).txIdx = s.txIdx ∧
    (segments n k s).parser = s.parser ∧ (segments n k s).engine = s.engine ∧ (segments n k s).pump = s.pump ∧
    (segments n k s).tel = s.tel ∧ (segments n k s).recent = s.recent ∧ (segments n k s).pool = s.pool ∧
    (segments n k s).usb = s.usb ∧ (segments n k s).status = s.status ∧ (segments n k s).ret = s.ret ∧
    (segments n k s).sched = s.sched ∧ (segments n k s).draws = s.draws := by
  induction n generalizing k s with
  | zero => simp [segments]
  | succ n ih => unfold segments; dsimp only; split_ifs <;> simp [ih]

/-- Reading the outputs writes the traces only. -/
@[simp] theorem readOutputs_frame (s : State) :
    (readOutputs s).cfg = s.cfg ∧ (readOutputs s).sess = s.sess ∧ (readOutputs s).txIdx = s.txIdx ∧
    (readOutputs s).parser = s.parser ∧ (readOutputs s).queue = s.queue ∧ (readOutputs s).engine = s.engine ∧
    (readOutputs s).paused = s.paused ∧ (readOutputs s).pump = s.pump ∧ (readOutputs s).tel = s.tel ∧
    (readOutputs s).recent = s.recent ∧ (readOutputs s).pool = s.pool ∧ (readOutputs s).usb = s.usb ∧
    (readOutputs s).status = s.status ∧ (readOutputs s).ret = s.ret ∧ (readOutputs s).sched = s.sched ∧
    (readOutputs s).draws = s.draws := by
  simp [readOutputs]

/-- Steps 1 to 3 of a render write the queue, the residual, `paused`, the cells and the status port only. -/
@[simp] theorem advanceSample_frame (s : State) :
    (advanceSample s).cfg = s.cfg ∧ (advanceSample s).sess = s.sess ∧ (advanceSample s).txIdx = s.txIdx ∧
    (advanceSample s).parser = s.parser ∧ (advanceSample s).pump = s.pump ∧ (advanceSample s).tel = s.tel ∧
    (advanceSample s).recent = s.recent ∧ (advanceSample s).pool = s.pool ∧ (advanceSample s).usb = s.usb ∧
    (advanceSample s).ret = s.ret ∧ (advanceSample s).sched = s.sched ∧ (advanceSample s).draws = s.draws := by
  simp [advanceSample]

/-- `render_sample` writes the queue, the residual, `paused`, the cells and the status port only (R141). -/
@[simp] theorem renderSample_frame (s : State) :
    (renderSample s).cfg = s.cfg ∧ (renderSample s).sess = s.sess ∧ (renderSample s).txIdx = s.txIdx ∧
    (renderSample s).parser = s.parser ∧ (renderSample s).pump = s.pump ∧ (renderSample s).tel = s.tel ∧
    (renderSample s).recent = s.recent ∧ (renderSample s).pool = s.pool ∧ (renderSample s).usb = s.usb ∧
    (renderSample s).ret = s.ret ∧ (renderSample s).sched = s.sched ∧ (renderSample s).draws = s.draws := by
  simp [renderSample]

/-- `cell_init` writes the cells only (R148). -/
@[simp] theorem cellInit_frame (c : CellId) (s : State) :
    (cellInit c s).cfg = s.cfg ∧ (cellInit c s).sess = s.sess ∧ (cellInit c s).txIdx = s.txIdx ∧
    (cellInit c s).parser = s.parser ∧ (cellInit c s).queue = s.queue ∧ (cellInit c s).engine = s.engine ∧
    (cellInit c s).paused = s.paused ∧ (cellInit c s).pump = s.pump ∧ (cellInit c s).tel = s.tel ∧
    (cellInit c s).recent = s.recent ∧ (cellInit c s).pool = s.pool ∧ (cellInit c s).usb = s.usb ∧
    (cellInit c s).status = s.status ∧ (cellInit c s).ret = s.ret ∧ (cellInit c s).sched = s.sched ∧
    (cellInit c s).draws = s.draws := by
  simp [cellInit]

/-- `cell_construct` writes the cells only (R149). -/
@[simp] theorem cellConstruct_frame (c : CellId) (s : State) :
    (cellConstruct c s).cfg = s.cfg ∧ (cellConstruct c s).sess = s.sess ∧ (cellConstruct c s).txIdx = s.txIdx ∧
    (cellConstruct c s).parser = s.parser ∧ (cellConstruct c s).queue = s.queue ∧
    (cellConstruct c s).engine = s.engine ∧ (cellConstruct c s).paused = s.paused ∧ (cellConstruct c s).pump = s.pump ∧
    (cellConstruct c s).tel = s.tel ∧ (cellConstruct c s).recent = s.recent ∧ (cellConstruct c s).pool = s.pool ∧
    (cellConstruct c s).usb = s.usb ∧ (cellConstruct c s).status = s.status ∧ (cellConstruct c s).ret = s.ret ∧
    (cellConstruct c s).sched = s.sched ∧ (cellConstruct c s).draws = s.draws := by
  simp [cellConstruct]

/-- `engine_reset` writes the queue, the residual, `paused` and the cells only (R150). -/
@[simp] theorem engineReset_frame (s : State) :
    (engineReset s).cfg = s.cfg ∧ (engineReset s).sess = s.sess ∧ (engineReset s).txIdx = s.txIdx ∧
    (engineReset s).parser = s.parser ∧ (engineReset s).pump = s.pump ∧ (engineReset s).tel = s.tel ∧
    (engineReset s).recent = s.recent ∧ (engineReset s).pool = s.pool ∧ (engineReset s).usb = s.usb ∧
    (engineReset s).status = s.status ∧ (engineReset s).ret = s.ret ∧ (engineReset s).sched = s.sched ∧
    (engineReset s).draws = s.draws := by
  simp [engineReset]

/-- CYCLE_MODE writes `model_mode` and the cells only (R231). -/
@[simp] theorem cycleMode_frame (s : State) :
    (cycleMode s).cfg = s.cfg ∧ (cycleMode s).sess = s.sess ∧ (cycleMode s).txIdx = s.txIdx ∧
    (cycleMode s).parser = s.parser ∧ (cycleMode s).queue = s.queue ∧ (cycleMode s).paused = s.paused ∧
    (cycleMode s).pump = s.pump ∧ (cycleMode s).tel = s.tel ∧ (cycleMode s).recent = s.recent ∧
    (cycleMode s).pool = s.pool ∧ (cycleMode s).usb = s.usb ∧ (cycleMode s).status = s.status ∧
    (cycleMode s).ret = s.ret ∧ (cycleMode s).sched = s.sched ∧ (cycleMode s).draws = s.draws := by
  simp [cycleMode]

/-- A command writes the engine and the cells only (R230). -/
@[simp] theorem controlDispatch_frame (op p0 : Byte) (s : State) :
    (controlDispatch op p0 s).cfg = s.cfg ∧ (controlDispatch op p0 s).sess = s.sess ∧
    (controlDispatch op p0 s).txIdx = s.txIdx ∧ (controlDispatch op p0 s).parser = s.parser ∧
    (controlDispatch op p0 s).queue = s.queue ∧ (controlDispatch op p0 s).paused = s.paused ∧
    (controlDispatch op p0 s).pump = s.pump ∧ (controlDispatch op p0 s).tel = s.tel ∧
    (controlDispatch op p0 s).recent = s.recent ∧ (controlDispatch op p0 s).pool = s.pool ∧
    (controlDispatch op p0 s).usb = s.usb ∧ (controlDispatch op p0 s).status = s.status ∧
    (controlDispatch op p0 s).ret = s.ret ∧ (controlDispatch op p0 s).sched = s.sched ∧
    (controlDispatch op p0 s).draws = s.draws := by
  unfold controlDispatch; split_ifs <;> simp

/-- MagicLost writes the parser, telemetry and the status port only (R291). -/
@[simp] theorem loseMagic_frame (b : Byte) (s : State) :
    (loseMagic b s).cfg = s.cfg ∧ (loseMagic b s).sess = s.sess ∧ (loseMagic b s).txIdx = s.txIdx ∧
    (loseMagic b s).queue = s.queue ∧ (loseMagic b s).engine = s.engine ∧ (loseMagic b s).paused = s.paused ∧
    (loseMagic b s).pump = s.pump ∧ (loseMagic b s).recent = s.recent ∧ (loseMagic b s).cellA = s.cellA ∧
    (loseMagic b s).cellB = s.cellB ∧ (loseMagic b s).pool = s.pool ∧ (loseMagic b s).usb = s.usb ∧
    (loseMagic b s).ret = s.ret ∧ (loseMagic b s).sched = s.sched ∧ (loseMagic b s).draws = s.draws := by
  simp [loseMagic]

/-- OversizedCount writes the parser, telemetry and the status port only (R292). -/
@[simp] theorem rejectCount_frame (c : Word32) (s : State) :
    (rejectCount c s).cfg = s.cfg ∧ (rejectCount c s).sess = s.sess ∧ (rejectCount c s).txIdx = s.txIdx ∧
    (rejectCount c s).queue = s.queue ∧ (rejectCount c s).engine = s.engine ∧ (rejectCount c s).paused = s.paused ∧
    (rejectCount c s).pump = s.pump ∧ (rejectCount c s).recent = s.recent ∧ (rejectCount c s).cellA = s.cellA ∧
    (rejectCount c s).cellB = s.cellB ∧ (rejectCount c s).pool = s.pool ∧ (rejectCount c s).usb = s.usb ∧
    (rejectCount c s).ret = s.ret ∧ (rejectCount c s).sched = s.sched ∧ (rejectCount c s).draws = s.draws := by
  simp [rejectCount]

/-- A command header writes the parser and the status port only (R205). -/
@[simp] theorem acceptCommand_frame (f : Word32) (s : State) :
    (acceptCommand f s).cfg = s.cfg ∧ (acceptCommand f s).sess = s.sess ∧ (acceptCommand f s).txIdx = s.txIdx ∧
    (acceptCommand f s).queue = s.queue ∧ (acceptCommand f s).engine = s.engine ∧
    (acceptCommand f s).paused = s.paused ∧ (acceptCommand f s).pump = s.pump ∧ (acceptCommand f s).tel = s.tel ∧
    (acceptCommand f s).recent = s.recent ∧ (acceptCommand f s).cellA = s.cellA ∧ (acceptCommand f s).cellB = s.cellB ∧
    (acceptCommand f s).pool = s.pool ∧ (acceptCommand f s).usb = s.usb ∧ (acceptCommand f s).ret = s.ret ∧
    (acceptCommand f s).sched = s.sched ∧ (acceptCommand f s).draws = s.draws := by
  simp [acceptCommand]

/-- An event header writes the parser, telemetry and the status port only (R205). -/
@[simp] theorem acceptEvents_frame (c f : Word32) (s : State) :
    (acceptEvents c f s).cfg = s.cfg ∧ (acceptEvents c f s).sess = s.sess ∧ (acceptEvents c f s).txIdx = s.txIdx ∧
    (acceptEvents c f s).queue = s.queue ∧ (acceptEvents c f s).engine = s.engine ∧
    (acceptEvents c f s).paused = s.paused ∧ (acceptEvents c f s).pump = s.pump ∧
    (acceptEvents c f s).recent = s.recent ∧ (acceptEvents c f s).cellA = s.cellA ∧
    (acceptEvents c f s).cellB = s.cellB ∧ (acceptEvents c f s).pool = s.pool ∧ (acceptEvents c f s).usb = s.usb ∧
    (acceptEvents c f s).ret = s.ret ∧ (acceptEvents c f s).sched = s.sched ∧ (acceptEvents c f s).draws = s.draws := by
  unfold acceptEvents; dsimp only; split <;> simp

/-- A record writes the parser, the queue, telemetry, `paused` and the status port only (R206). -/
@[simp] theorem acceptRecord_frame (e : Event) (s : State) :
    (acceptRecord e s).cfg = s.cfg ∧ (acceptRecord e s).sess = s.sess ∧ (acceptRecord e s).txIdx = s.txIdx ∧
    (acceptRecord e s).engine = s.engine ∧ (acceptRecord e s).pump = s.pump ∧ (acceptRecord e s).recent = s.recent ∧
    (acceptRecord e s).cellA = s.cellA ∧ (acceptRecord e s).cellB = s.cellB ∧ (acceptRecord e s).pool = s.pool ∧
    (acceptRecord e s).usb = s.usb ∧ (acceptRecord e s).ret = s.ret ∧ (acceptRecord e s).sched = s.sched ∧
    (acceptRecord e s).draws = s.draws := by
  unfold acceptRecord; dsimp only; split <;> simp

/-- A command record writes the parser, the engine, the cells, telemetry and the status port only (R207). -/
@[simp] theorem acceptCommandRecord_frame (op p0 : Byte) (s : State) :
    (acceptCommandRecord op p0 s).cfg = s.cfg ∧ (acceptCommandRecord op p0 s).sess = s.sess ∧
    (acceptCommandRecord op p0 s).txIdx = s.txIdx ∧ (acceptCommandRecord op p0 s).queue = s.queue ∧
    (acceptCommandRecord op p0 s).paused = s.paused ∧ (acceptCommandRecord op p0 s).pump = s.pump ∧
    (acceptCommandRecord op p0 s).recent = s.recent ∧ (acceptCommandRecord op p0 s).pool = s.pool ∧
    (acceptCommandRecord op p0 s).usb = s.usb ∧ (acceptCommandRecord op p0 s).ret = s.ret ∧
    (acceptCommandRecord op p0 s).sched = s.sched ∧ (acceptCommandRecord op p0 s).draws = s.draws := by
  simp [acceptCommandRecord]

/-- `PULL` writes `rx`, the parser's buffer, the recent-bytes ring, telemetry and the status port only (R201). -/
@[simp] theorem pullByte_frame (b : Byte) (r : List Byte) (s : State) :
    (pullByte b r s).cfg = s.cfg ∧ (pullByte b r s).sess = s.sess ∧ (pullByte b r s).txIdx = s.txIdx ∧
    (pullByte b r s).queue = s.queue ∧ (pullByte b r s).engine = s.engine ∧ (pullByte b r s).paused = s.paused ∧
    (pullByte b r s).pump = s.pump ∧ (pullByte b r s).cellA = s.cellA ∧ (pullByte b r s).cellB = s.cellB ∧
    (pullByte b r s).pool = s.pool ∧ (pullByte b r s).ret = s.ret ∧ (pullByte b r s).sched = s.sched ∧
    (pullByte b r s).draws = s.draws := by
  unfold pullByte; dsimp only; split <;> simp

/-- TX_READY_BYTE writes `tx`, `tx_idx` and `sess` only (R272). -/
@[simp] theorem txReadyByte_frame (s : State) :
    (txReadyByte s).cfg = s.cfg ∧ (txReadyByte s).parser = s.parser ∧ (txReadyByte s).queue = s.queue ∧
    (txReadyByte s).engine = s.engine ∧ (txReadyByte s).paused = s.paused ∧ (txReadyByte s).pump = s.pump ∧
    (txReadyByte s).tel = s.tel ∧ (txReadyByte s).recent = s.recent ∧ (txReadyByte s).cellA = s.cellA ∧
    (txReadyByte s).cellB = s.cellB ∧ (txReadyByte s).pool = s.pool ∧ (txReadyByte s).status = s.status ∧
    (txReadyByte s).ret = s.ret ∧ (txReadyByte s).sched = s.sched ∧ (txReadyByte s).draws = s.draws := by
  unfold txReadyByte; dsimp only; split_ifs <;> simp

/-- So do several of them. -/
@[simp] theorem txReadyBytes_frame (n : Nat) (s : State) :
    (txReadyBytes n s).cfg = s.cfg ∧ (txReadyBytes n s).parser = s.parser ∧ (txReadyBytes n s).queue = s.queue ∧
    (txReadyBytes n s).engine = s.engine ∧ (txReadyBytes n s).paused = s.paused ∧ (txReadyBytes n s).pump = s.pump ∧
    (txReadyBytes n s).tel = s.tel ∧ (txReadyBytes n s).recent = s.recent ∧ (txReadyBytes n s).cellA = s.cellA ∧
    (txReadyBytes n s).cellB = s.cellB ∧ (txReadyBytes n s).pool = s.pool ∧ (txReadyBytes n s).status = s.status ∧
    (txReadyBytes n s).ret = s.ret ∧ (txReadyBytes n s).sched = s.sched ∧ (txReadyBytes n s).draws = s.draws := by
  induction n generalizing s with
  | zero => simp [txReadyBytes]
  | succ n ih => simp [txReadyBytes, ih]

/-- ATTACH leaves the straps, the pump, the pool, the streams, the recent bytes and the status port (R271, R335). -/
@[simp] theorem attachSession_frame (s : State) :
    (attachSession s).cfg = s.cfg ∧ (attachSession s).pump = s.pump ∧ (attachSession s).recent = s.recent ∧
    (attachSession s).pool = s.pool ∧ (attachSession s).usb = s.usb ∧ (attachSession s).status = s.status ∧
    (attachSession s).ret = s.ret ∧ (attachSession s).sched = s.sched ∧ (attachSession s).draws = s.draws := by
  simp [attachSession]

/-- DETACH leaves the cells, the engine, telemetry, the pump and the pool (R273, R335). -/
@[simp] theorem detachSession_frame (s : State) :
    (detachSession s).cfg = s.cfg ∧ (detachSession s).txIdx = s.txIdx ∧ (detachSession s).engine = s.engine ∧
    (detachSession s).pump = s.pump ∧ (detachSession s).tel = s.tel ∧ (detachSession s).recent = s.recent ∧
    (detachSession s).cellA = s.cellA ∧ (detachSession s).cellB = s.cellB ∧ (detachSession s).pool = s.pool ∧
    (detachSession s).usb = s.usb ∧ (detachSession s).ret = s.ret ∧ (detachSession s).sched = s.sched ∧
    (detachSession s).draws = s.draws := by
  simp [detachSession]

/-- PUMP_ACQUIRE writes the pump, the pool and the status port only (R166). -/
@[simp] theorem pumpAcquire_frame (s : State) :
    (pumpAcquire s).cfg = s.cfg ∧ (pumpAcquire s).sess = s.sess ∧ (pumpAcquire s).txIdx = s.txIdx ∧
    (pumpAcquire s).parser = s.parser ∧ (pumpAcquire s).queue = s.queue ∧ (pumpAcquire s).engine = s.engine ∧
    (pumpAcquire s).paused = s.paused ∧ (pumpAcquire s).tel = s.tel ∧ (pumpAcquire s).recent = s.recent ∧
    (pumpAcquire s).cellA = s.cellA ∧ (pumpAcquire s).cellB = s.cellB ∧ (pumpAcquire s).usb = s.usb ∧
    (pumpAcquire s).ret = s.ret ∧ (pumpAcquire s).sched = s.sched ∧ (pumpAcquire s).draws = s.draws := by
  unfold pumpAcquire; split
  · simp
  · split <;> simp

/-- PUMP_RENDER writes what a render writes, one frame and `pump_idx` (R167). -/
@[simp] theorem pumpRender_frame (s : State) :
    (pumpRender s).cfg = s.cfg ∧ (pumpRender s).sess = s.sess ∧ (pumpRender s).txIdx = s.txIdx ∧
    (pumpRender s).parser = s.parser ∧ (pumpRender s).tel = s.tel ∧ (pumpRender s).recent = s.recent ∧
    (pumpRender s).usb = s.usb ∧ (pumpRender s).ret = s.ret ∧ (pumpRender s).sched = s.sched ∧
    (pumpRender s).draws = s.draws := by
  unfold pumpRender; dsimp only; split <;> simp

/-- PUMP_COMMIT writes the pump and the pool only (R168). -/
@[simp] theorem pumpCommit_frame (s : State) :
    (pumpCommit s).cfg = s.cfg ∧ (pumpCommit s).sess = s.sess ∧ (pumpCommit s).txIdx = s.txIdx ∧
    (pumpCommit s).parser = s.parser ∧ (pumpCommit s).queue = s.queue ∧ (pumpCommit s).engine = s.engine ∧
    (pumpCommit s).paused = s.paused ∧ (pumpCommit s).tel = s.tel ∧ (pumpCommit s).recent = s.recent ∧
    (pumpCommit s).cellA = s.cellA ∧ (pumpCommit s).cellB = s.cellB ∧ (pumpCommit s).usb = s.usb ∧
    (pumpCommit s).status = s.status ∧ (pumpCommit s).ret = s.ret ∧ (pumpCommit s).sched = s.sched ∧
    (pumpCommit s).draws = s.draws := by
  unfold pumpCommit; dsimp only; split <;> simp

/-- The sink's step writes the pool only (R172). -/
@[simp] theorem sinkFree_frame (s : State) :
    (sinkFree s).cfg = s.cfg ∧ (sinkFree s).sess = s.sess ∧ (sinkFree s).txIdx = s.txIdx ∧
    (sinkFree s).parser = s.parser ∧ (sinkFree s).queue = s.queue ∧ (sinkFree s).engine = s.engine ∧
    (sinkFree s).paused = s.paused ∧ (sinkFree s).pump = s.pump ∧ (sinkFree s).tel = s.tel ∧
    (sinkFree s).recent = s.recent ∧ (sinkFree s).cellA = s.cellA ∧ (sinkFree s).cellB = s.cellB ∧
    (sinkFree s).usb = s.usb ∧ (sinkFree s).status = s.status ∧ (sinkFree s).ret = s.ret ∧
    (sinkFree s).sched = s.sched ∧ (sinkFree s).draws = s.draws := by
  unfold sinkFree; split <;> simp

end Sys2Proof.Laws
end

