-- ==== Sys2Proof/Laws/Control.lean ====
section
/-!
SUPPORT. What the calls on a cell and the commands do, said once (spec/41_scheduler.md R148, R149; spec/45_control.md R230 to
R234).
-/

namespace Sys2Proof.Laws

open Sys2Proof.Machine

/-- Several calls on a cell append to its trace and do nothing else. -/
theorem callCells_eq (c : CellId) (ks : List CellCall) (s : State) :
    callCells c ks s =
      match c with
      | .a => { s with cellA := { s.cellA with trace := s.cellA.trace ++ ks } }
      | .b => { s with cellB := { s.cellB with trace := s.cellB.trace ++ ks } } := by
  induction ks generalizing s with
  | nil => cases c <;> simp [callCells]
  | cons k ks ih =>
    show callCells c ks (callCell c k s) = _
    rw [ih]
    cases c <;> simp [callCell]

theorem callCells_a (ks : List CellCall) (s : State) :
    callCells .a ks s = { s with cellA := { s.cellA with trace := s.cellA.trace ++ ks } } := callCells_eq .a ks s

theorem callCells_b (ks : List CellCall) (s : State) :
    callCells .b ks s = { s with cellB := { s.cellB with trace := s.cellB.trace ++ ks } } := callCells_eq .b ks s

theorem controlDispatch_cycle (p0 : Byte) (s : State) : controlDispatch 0x01 p0 s = cycleMode s := rfl

theorem controlDispatch_mask (p0 : Byte) (s : State) : controlDispatch 0x02 p0 s = setVoiceMask p0 s := rfl

theorem controlDispatch_filter (p0 : Byte) (s : State) : controlDispatch 0x03 p0 s = setFilter p0 s := rfl

theorem controlDispatch_unknown (op p0 : Byte) (s : State) (h1 : op ≠ 0x01) (h2 : op ≠ 0x02) (h3 : op ≠ 0x03) :
    controlDispatch op p0 s = s := by
  rw [controlDispatch, if_neg h1, if_neg h2, if_neg h3]

/-- The commands write `model_mode`, `voice_mask` and `filter_en`, never the residual (R230 to R234). -/
@[simp] theorem controlDispatch_acc (op p0 : Byte) (s : State) : (controlDispatch op p0 s).engine.acc = s.engine.acc := by
  unfold controlDispatch
  split_ifs <;> simp [cycleMode, setVoiceMask, setFilter]

/-- The three lists a cell's trace can gain from a command: none, or an initialisation. -/
theorem controlDispatch_cells (op p0 : Byte) (s : State) :
    s.cellA.trace <+: (controlDispatch op p0 s).cellA.trace ∧ s.cellB.trace <+: (controlDispatch op p0 s).cellB.trace ∧
    (controlDispatch op p0 s).cellA.out = s.cellA.out ∧ (controlDispatch op p0 s).cellB.out = s.cellB.out := by
  unfold controlDispatch
  split_ifs <;> simp [cycleMode, setVoiceMask, setFilter, cellInit, callCells_a, callCells_b]

end Sys2Proof.Laws
end

