-- ==== Sys2Proof/Laws/Words.lean ====
section
/-!
SUPPORT. Byte order: assembling a word from its bytes and taking it apart are inverse (spec/20_memory.md R66), and the value
of an assembled word is the sum the spec writes (spec/00_scope.md R10).
-/

namespace Sys2Proof.Laws

/-- `u16le` of the two bytes of a u16 is the u16. -/
theorem u16le_halfBytes (w : BitVec 16) : u16le (w.extractLsb' 0 8) (w.extractLsb' 8 8) = w := by
  simp only [u16le]
  ext i hi
  simp only [BitVec.getElem_append, BitVec.getElem_extractLsb']
  split
  · simp [BitVec.getLsbD_eq_getElem, hi]
  · simp [BitVec.getLsbD_eq_getElem, hi, show 8 + (i - 8) = i by omega]

/-- `u32le` of the four bytes of a u32 is the u32. -/
theorem u32le_wordBytes (w : Word32) :
    u32le (w.extractLsb' 0 8) (w.extractLsb' 8 8) (w.extractLsb' 16 8) (w.extractLsb' 24 8) = w := by
  simp only [u32le]
  ext i hi
  simp only [BitVec.getElem_append, BitVec.getElem_extractLsb']
  split_ifs with h1 h2 h3
  · simp [BitVec.getLsbD_eq_getElem, hi]
  · simp [BitVec.getLsbD_eq_getElem, hi, show 8 + (i - 8) = i by omega]
  · simp [BitVec.getLsbD_eq_getElem, hi, show 16 + (i - 8 - 8) = i by omega]
  · simp [BitVec.getLsbD_eq_getElem, hi, show 24 + (i - 8 - 8 - 8) = i by omega]

/-- The value of a concatenation. -/
theorem toNat_append_eq {n m : Nat} (x : BitVec n) (y : BitVec m) : (x ++ y).toNat = y.toNat + 2 ^ m * x.toNat := by
  rw [BitVec.toNat_append, ← Nat.shiftLeft_add_eq_or_of_lt y.isLt, Nat.shiftLeft_eq, Nat.mul_comm, Nat.add_comm]

/-- The value of `u16le` (R10). -/
theorem u16le_toNat (b0 b1 : Byte) : (u16le b0 b1).toNat = b0.toNat + 256 * b1.toNat := by
  simp only [u16le]
  rw [toNat_append_eq]
  omega

/-- The value of `u32le` (R10). -/
theorem u32le_toNat (b0 b1 b2 b3 : Byte) :
    (u32le b0 b1 b2 b3).toNat = b0.toNat + 256 * b1.toNat + 65536 * b2.toNat + 16777216 * b3.toNat := by
  simp only [u32le]
  rw [toNat_append_eq, toNat_append_eq, toNat_append_eq]
  omega

/-- A concatenation's low and high parts. -/
theorem extract_append_low {n m : Nat} (x : BitVec n) (y : BitVec m) : (x ++ y).extractLsb' 0 m = y := by
  ext i hi
  simp [BitVec.getElem_extractLsb', BitVec.getLsbD_append, hi]

theorem extract_append_high {n m : Nat} (x : BitVec n) (y : BitVec m) : (x ++ y).extractLsb' m n = x := by
  ext i hi
  simp [BitVec.getElem_extractLsb', BitVec.getLsbD_append, BitVec.getLsbD_eq_getElem hi]

/-- The bytes of an assembled u32 are the bytes it was assembled from. -/
theorem wordBytes_u32le (b0 b1 b2 b3 : Byte) : wordBytes (u32le b0 b1 b2 b3) = [b0, b1, b2, b3] := by
  have h : ∀ k (b : Byte), (∀ i, i < 8 → (u32le b0 b1 b2 b3).getLsbD (k + i) = b.getLsbD i) →
      (u32le b0 b1 b2 b3).extractLsb' k 8 = b := by
    intro k b hb
    ext i hi
    rw [BitVec.getElem_extractLsb', hb i hi, BitVec.getLsbD_eq_getElem hi]
  simp only [wordBytes, List.cons.injEq, and_true]
  refine ⟨h 0 b0 ?_, h 8 b1 ?_, h 16 b2 ?_, h 24 b3 ?_⟩ <;> intro i hi <;>
    simp only [u32le, BitVec.getLsbD_append] <;> split_ifs <;> first | omega | (congr 1; omega)

/-- The bytes of an assembled u16 are the bytes it was assembled from. -/
theorem halfBytes_u16le (b0 b1 : Byte) : halfBytes (u16le b0 b1) = [b0, b1] := by
  simp only [halfBytes, u16le, List.cons.injEq, and_true]
  exact ⟨extract_append_low b1 b0, extract_append_high b1 b0⟩

/-- An address byte is its ignored bits above its register number (R91). -/
theorem addr_byte (b : Byte) : addrIgnored b ++ addrField b = b := by
  ext i hi
  simp only [addrIgnored, addrField, BitVec.getElem_append, BitVec.getElem_extractLsb']
  split
  · simp [BitVec.getLsbD_eq_getElem, hi]
  · simp [BitVec.getLsbD_eq_getElem, hi, show 5 + (i - 5) = i by omega]

/-- A chip byte is its ignored bits above its mask (R92). -/
theorem chip_byte (b : Byte) : chipIgnored b ++ chipField b = b := by
  ext i hi
  simp only [chipIgnored, chipField, BitVec.getElem_append, BitVec.getElem_extractLsb']
  split
  · simp [BitVec.getLsbD_eq_getElem, hi]
  · simp [BitVec.getLsbD_eq_getElem, hi, show 2 + (i - 2) = i by omega]

end Sys2Proof.Laws
end

