-- ==== Sys2Proof/Laws/Encoding.lean ====
section
/-!
SUPPORT. The static conditions as propositions, and what each class of header, opcode and address byte decodes to
(spec/30_encoding.md R89, R91, R92, R96).
-/

namespace Sys2Proof.Laws

/-- The counts of class 3 (R89). -/
theorem oversizedCount_iff (c : Nat) : oversizedCount c = true ↔ c ≠ 65535 ∧ 8192 < c := by
  simp only [oversizedCount, Bool.and_eq_true, decide_eq_true_eq]

/-- The unknown opcodes (R96). -/
theorem unknownOpcode_iff (op : Byte) : unknownOpcode op = true ↔ op ≠ 1 ∧ op ≠ 2 ∧ op ≠ 3 := by
  simp only [unknownOpcode, Bool.and_eq_true, decide_eq_true_eq]
  tauto

/-- A miss is any window but the magic (R204). -/
theorem scanMiss_wellFormed (b0 b1 b2 b3 : Byte) :
    (Instr.scanMiss b0 b1 b2 b3).wellFormed = true ↔ [b0, b1, b2, b3] ≠ magic := by
  simp only [Instr.wellFormed, decide_eq_true_eq]

/-- A window that is the magic matches, whatever follows. -/
theorem decodeWindow4_match (b0 b1 b2 b3 : Byte) (r : List Byte) (h : [b0, b1, b2, b3] = magic) :
    decodeWindow4 (b0 :: b1 :: b2 :: b3 :: r) = .ok .scanMatch := congrArg Except.ok (if_pos h)

/-- Any other window misses. -/
theorem decodeWindow4_miss (b0 b1 b2 b3 : Byte) (r : List Byte) (h : [b0, b1, b2, b3] ≠ magic) :
    decodeWindow4 (b0 :: b1 :: b2 :: b3 :: r) = .ok (.scanMiss b0 b1 b2 b3) := congrArg Except.ok (if_neg h)

/-- A 12-byte header with its magic. -/
theorem decodeHdr12_magic (m0 m1 m2 m3 c0 c1 c2 c3 f0 f1 f2 f3 : Byte) (r : List Byte) (h : [m0, m1, m2, m3] = magic) :
    decodeHdr12 (m0 :: m1 :: m2 :: m3 :: c0 :: c1 :: c2 :: c3 :: f0 :: f1 :: f2 :: f3 :: r) =
      .ok (classifyHdr12 (u32le c0 c1 c2 c3) (u32le f0 f1 f2 f3)) := if_pos h

/-- A 10-byte header with its magic. -/
theorem decodeHdr10_magic (m0 m1 m2 m3 c0 c1 f0 f1 f2 f3 : Byte) (r : List Byte) (h : [m0, m1, m2, m3] = magic) :
    decodeHdr10 (m0 :: m1 :: m2 :: m3 :: c0 :: c1 :: f0 :: f1 :: f2 :: f3 :: r) =
      .ok (classifyHdr10 (u16le c0 c1) (u32le f0 f1 f2 f3)) := if_pos h

theorem classifyHdr12_command (f : Word32) : classifyHdr12 0xFFFF f = .hdr12Command f := by simp [classifyHdr12]

theorem classifyHdr12_max (f : Word32) : classifyHdr12 8192 f = .hdr12EventsMax f := by simp [classifyHdr12]

theorem classifyHdr12_events (c f : Word32) (h : c.toNat < 8192) :
    classifyHdr12 c f = .hdr12Events (c.setWidth 13) f := by
  have h' : c ≠ 0xFFFF := by rintro rfl; simp at h
  rw [classifyHdr12, if_neg h', if_pos h]

theorem classifyHdr12_oversized (c f : Word32) (h : oversizedCount c.toNat = true) :
    classifyHdr12 c f = .hdr12Oversized c f := by
  rw [oversizedCount_iff] at h
  have h1 : c ≠ 0xFFFF := by rintro rfl; simp at h
  have h3 : c ≠ 8192 := by rintro rfl; simp at h
  rw [classifyHdr12, if_neg h1, if_neg (by omega), if_neg h3]

theorem classifyHdr10_command (f : Word32) : classifyHdr10 0xFFFF f = .hdr10Command f := by simp [classifyHdr10]

theorem classifyHdr10_max (f : Word32) : classifyHdr10 8192 f = .hdr10EventsMax f := by simp [classifyHdr10]

theorem classifyHdr10_events (c : BitVec 16) (f : Word32) (h : c.toNat < 8192) :
    classifyHdr10 c f = .hdr10Events (c.setWidth 13) f := by
  have h' : c ≠ 0xFFFF := by rintro rfl; simp at h
  rw [classifyHdr10, if_neg h', if_pos h]

theorem classifyHdr10_oversized (c : BitVec 16) (f : Word32) (h : oversizedCount c.toNat = true) :
    classifyHdr10 c f = .hdr10Oversized c f := by
  rw [oversizedCount_iff] at h
  have h1 : c ≠ 0xFFFF := by rintro rfl; simp at h
  have h3 : c ≠ 8192 := by rintro rfl; simp at h
  rw [classifyHdr10, if_neg h1, if_neg (by omega), if_neg h3]

theorem classifyCommand_unknown (op p0 p1 p2 : Byte) (h : unknownOpcode op = true) :
    classifyCommand op p0 p1 p2 = .cmdUnknown op p0 p1 p2 := by
  rw [unknownOpcode_iff] at h
  rw [classifyCommand, if_neg h.1, if_neg h.2.1, if_neg h.2.2]

/-- A 13-bit count survives the header's wider field. -/
theorem count13_lt (c : BitVec 13) {n : Nat} (h : 13 ≤ n) : (c.setWidth n).toNat < 8192 := by
  rw [BitVec.toNat_setWidth_of_le h]
  exact c.isLt

theorem addrIgnored_append (h : BitVec 3) (a : SidAddr) : addrIgnored (h ++ a) = h := extract_append_high h a

theorem addrField_append (h : BitVec 3) (a : SidAddr) : addrField (h ++ a) = a := extract_append_low h a

theorem chipIgnored_append (h : BitVec 6) (m : BitVec 2) : chipIgnored (h ++ m) = h := extract_append_high h m

theorem chipField_append (h : BitVec 6) (m : BitVec 2) : chipField (h ++ m) = m := extract_append_low h m

end Sys2Proof.Laws
end

