-- ==== Sys2Proof/Laws/Flags.lean ====
section
/-!
SUPPORT. The arithmetic of counters, flags and saturations, as integers (spec/00_scope.md R10; R137, R146, R246).
-/

namespace Sys2Proof.Laws

open Sys2Proof.Machine

/-- `satinc32` as an integer. -/
@[simp] theorem satinc32_toNat (c : Word32) : (satinc32 c).toNat = capped (c.toNat + 1) := by
  have := c.isLt
  unfold satinc32 capped
  split
  · subst c; rfl
  · rename_i h
    have : c.toNat ≠ 0xFFFFFFFF := fun e => h (BitVec.eq_of_toNat_eq e)
    rw [BitVec.toNat_add]
    simp
    omega

/-- `satadd32` as an integer. -/
@[simp] theorem satadd32_toNat (c : Word32) (d : Nat) : (satadd32 c d).toNat = capped (c.toNat + d) := by
  unfold satadd32 capped
  rw [BitVec.toNat_ofNat, Nat.mod_eq_of_lt]
  omega

/-- A counter never falls. -/
theorem le_capped {c : Word32} (n : Nat) : c.toNat ≤ capped (c.toNat + n) := by
  have := c.isLt
  unfold capped
  omega

/-- A word is what its low 32 bits say. -/
theorem narrowEvent_toNat (e : Event) :
    narrowEvent e.chipMask.toNat e.addr.toNat e.value.toNat e.delta.toNat = e := by
  simp [narrowEvent]

/-- At depth 0 the flow flag is clear (R186, R246). -/
theorem pausedAt_zero (cfg : Config) (p : Bool) (h : 0 < cfg.highWm) : pausedAt cfg p 0 = false := by
  unfold pausedAt
  cases p <;> simp; omega

/-- A clear flow flag means a depth below the high watermark (R249). -/
theorem pausedAt_false (cfg : Config) (p : Bool) (n : Nat) (h : cfg.lowWm < cfg.highWm)
    (hp : pausedAt cfg p n = false) : n < cfg.highWm := by
  unfold pausedAt at hp
  cases p <;> simp at hp <;> omega

/-- The budget is at least one cycle (R137). -/
theorem one_le_cycleBudget (cfg : Config) (acc : Nat) : 1 ≤ cycleBudget cfg acc := by
  unfold cycleBudget zeroCycle
  split
  · exact le_refl 1
  · rename_i h
    simp only [decide_eq_true_eq] at h
    omega

/-- The residual stays below the sample rate (R48 item 7). -/
theorem nextAcc_lt (cfg : Config) (acc : Nat) (h : 0 < cfg.fsHz) : nextAcc cfg acc < cfg.fsHz := by
  unfold nextAcc
  split
  · exact h
  · exact Nat.mod_lt _ h

end Sys2Proof.Laws
end

