-- ==== Sys2Proof/Laws/Memory.lean ====
section
/-!
SUPPORT. The laws of an indexed memory (spec/20_memory.md R62 to R64): a read after a write at the same address gives what was
written, a write leaves every other address alone, and a write keeps the canonical form.
-/

namespace Sys2Proof.Laws

open Sys2Proof.Machine

variable {α : Type}

@[simp] theorem memRead_nil (a : Nat) : memRead ([] : Memory α) a = none := rfl

/-- Read after write, same address. -/
@[simp] theorem memRead_memWrite_same (m : Memory α) (a : Nat) (v : α) : memRead (memWrite m a v) a = some v := by
  induction m with
  | nil => simp [memWrite, memRead]
  | cons p m ih =>
    obtain ⟨b, w⟩ := p
    simp only [memWrite]
    split_ifs with h1 h2
    · simp [memRead]
    · simp [memRead]
    · simp [memRead, h2, ih]

/-- Read after write, another address. -/
theorem memRead_memWrite_other (m : Memory α) {a b : Nat} (v : α) (h : b ≠ a) :
    memRead (memWrite m a v) b = memRead m b := by
  induction m with
  | nil => simp [memWrite, memRead, h]
  | cons p m ih =>
    obtain ⟨c, w⟩ := p
    simp only [memWrite]
    split_ifs with h1 h2
    · simp [memRead, h]
    · subst h2; simp [memRead, h]
    · simp [memRead, ih]

/-- A write lists its address and what was listed. -/
theorem keys_memWrite (m : Memory α) (a : Nat) (v : α) (k : Nat) :
    k ∈ (memWrite m a v).map Prod.fst ↔ k = a ∨ k ∈ m.map Prod.fst := by
  induction m with
  | nil => simp [memWrite]
  | cons p m ih =>
    obtain ⟨b, w⟩ := p
    simp only [memWrite]
    split_ifs with h1 h2
    · simp
    · subst h2; simp
    · simp only [List.map_cons, List.mem_cons, ih]; tauto

/-- A write keeps the canonical form. -/
theorem wf_memWrite (m : Memory α) (a : Nat) (v : α) (h : Memory.wf m) : Memory.wf (memWrite m a v) := by
  induction m with
  | nil => simp [memWrite, Memory.wf]
  | cons p m ih =>
    obtain ⟨b, w⟩ := p
    simp only [Memory.wf, List.map_cons, List.pairwise_cons] at h
    simp only [memWrite]
    split_ifs with h1 h2
    · simp only [Memory.wf, List.map_cons, List.pairwise_cons, List.mem_cons]
      exact ⟨fun k hk => hk.elim (fun e => e ▸ h1) fun hk => h1.trans (h.1 k hk), h⟩
    · subst h2; simpa only [Memory.wf, List.map_cons, List.pairwise_cons] using h
    · simp only [Memory.wf, List.map_cons, List.pairwise_cons]
      refine ⟨fun k hk => ?_, ih h.2⟩
      rcases (keys_memWrite m a v k).1 hk with rfl | hk
      · omega
      · exact h.1 k hk

/-- A write inside a range keeps the memory inside it. -/
theorem lt_memWrite (m : Memory α) {a n : Nat} (v : α) (ha : a < n) (h : ∀ p ∈ m, p.1 < n) :
    ∀ p ∈ memWrite m a v, p.1 < n := by
  intro p hp
  have hk := (keys_memWrite m a v p.1).1 (List.mem_map_of_mem hp)
  rcases hk with hk | hk
  · omega
  · obtain ⟨q, hq, e⟩ := List.mem_map.1 hk
    exact e ▸ h q hq

/-- A written address stays written. -/
theorem isSome_memWrite (m : Memory α) (a b : Nat) (v : α) (h : (memRead m b).isSome) :
    (memRead (memWrite m a v) b).isSome := by
  by_cases e : b = a
  · subst e; simp
  · rwa [memRead_memWrite_other m v e]

end Sys2Proof.Laws
end

