-- ==== Sys2Proof/Laws/Queue.lean ====
section
/-!
SUPPORT. The event queue seen as the list of the events it holds (spec/20_memory.md R62): what each shared operation of
spec/43_event_queue.md does to that list, and that each keeps the ring's registers in agreement (spec/10_state.md R48).
-/

namespace Sys2Proof.Laws

open Sys2Proof.Machine

/-- Different offsets from the head are different slots. -/
theorem slot_inj {n h j k : Nat} (hj : j < n) (hk : k < n) (e : (h + j) % n = (h + k) % n) : j = k := by
  have e' : h + j ≡ h + k [MOD n] := e
  have := Nat.ModEq.add_left_cancel' h e'
  unfold Nat.ModEq at this
  rwa [Nat.mod_eq_of_lt hj, Nat.mod_eq_of_lt hk] at this

/-- The slot after the head's successor. -/
theorem slot_succ (n h j : Nat) : ((h + 1) % n + j) % n = (h + (j + 1)) % n := by
  rw [Nat.mod_add_mod]
  congr 1
  omega

/-- A slot is read the same wherever the ring reads the same. -/
theorem ringAt_congr {s t : State} {i : Nat} (h : memRead t.queue.ring i = memRead s.queue.ring i) :
    ringAt t i = ringAt s i := by
  unfold ringAt
  rw [h]

@[simp] theorem heldEvents_length (s : State) : (heldEvents s).length = s.queue.count := by simp [heldEvents]

theorem heldEvents_get (s : State) (j : Nat) (h : j < s.queue.count) :
    (heldEvents s)[j]? = some (ringAt s ((s.queue.head + j) % s.cfg.queueCap)) := by
  simp [heldEvents, h]

/-- Two states hold the same events when counts agree and the slots do. -/
theorem heldEvents_ext {s : State} {es : List Event} (hc : es.length = s.queue.count)
    (h : ∀ j, j < s.queue.count → es[j]? = some (ringAt s ((s.queue.head + j) % s.cfg.queueCap))) :
    heldEvents s = es := by
  apply List.ext_getElem?
  intro j
  by_cases hj : j < s.queue.count
  · rw [heldEvents_get s j hj, h j hj]
  · rw [List.getElem?_eq_none (by simp; omega), List.getElem?_eq_none (by omega)]

/-- The held events depend on the queue and the capacity only. -/
theorem heldEvents_congr {s t : State} (h : t.queue = s.queue) (hc : t.cfg = s.cfg) : heldEvents t = heldEvents s := by
  unfold heldEvents ringAt
  rw [h, hc]

/-- The head of the list is `ring[head]`. -/
theorem heldEvents_cons (s : State) (h0 : 0 < s.queue.count) (hh : s.queue.head < s.cfg.queueCap) :
    ∃ es, heldEvents s = headEvent s :: es := by
  refine ⟨(heldEvents s).tail, ?_⟩
  have := heldEvents_get s 0 h0
  rw [Nat.add_zero, Nat.mod_eq_of_lt hh] at this
  cases hx : heldEvents s with
  | nil => rw [hx] at this; simp at this
  | cons a l =>
    rw [hx] at this
    simp at this
    simp [this, headEvent]

/-- What is left when the head goes, the slots staying as they are. -/
theorem heldEvents_advance {s t : State} (h0 : 0 < s.queue.count) (hh : s.queue.head < s.cfg.queueCap)
    (hc : t.cfg = s.cfg) (hhd : t.queue.head = (s.queue.head + 1) % s.cfg.queueCap) (hn : t.queue.count = s.queue.count - 1)
    (hr : t.queue.ring = s.queue.ring) : heldEvents s = headEvent s :: heldEvents t := by
  apply heldEvents_ext
  · simp [hn]; omega
  · intro j hj
    cases j with
    | zero => simp [headEvent, Nat.mod_eq_of_lt hh]
    | succ j =>
      rw [List.getElem?_cons_succ, heldEvents_get t j (by omega), hhd, hc, slot_succ]
      exact congrArg _ (ringAt_congr (by rw [hr]))

/-- `pop` removes the oldest event (R183, R190). -/
theorem heldEvents_popHead (s : State) (h0 : 0 < s.queue.count) (hh : s.queue.head < s.cfg.queueCap) :
    heldEvents s = headEvent s :: heldEvents (popHead s) :=
  heldEvents_advance h0 hh (by simp) (by simp [ringNext]) (by simp) (by simp)

/-- The store of a push appends (R181, R190). -/
theorem heldEvents_storeTail (e : Event) (s : State) (hc : s.queue.count < s.cfg.queueCap)
    (ht : s.queue.tail = (s.queue.head + s.queue.count) % s.cfg.queueCap) :
    heldEvents (storeTail e s) = heldEvents s ++ [e] := by
  apply heldEvents_ext
  · simp
  · intro j hj
    simp only [storeTail_queue, storeTail_frame] at hj ⊢
    by_cases hjc : j = s.queue.count
    · subst hjc
      rw [List.getElem?_append_right (by simp)]
      simp [ringAt, ht]
    · have hjl : j < s.queue.count := by omega
      rw [List.getElem?_append_left (by simpa using hjl), heldEvents_get s j hjl]
      refine congrArg _ (Eq.symm (ringAt_congr ?_))
      simp only [storeTail_queue]
      rw [memRead_memWrite_other]
      rw [ht]
      intro hx
      exact hjc (slot_inj (by omega) hc hx)

/-- Writing the head's delta changes the oldest event and no other. -/
theorem heldEvents_setHead (s : State) (d : Word32) (h0 : 0 < s.queue.count) (hh : s.queue.head < s.cfg.queueCap)
    (hc : s.queue.count ≤ s.cfg.queueCap) :
    ∃ es, heldEvents s = headEvent s :: es ∧
      heldEvents (setRingDelta s.queue.head d s) = { headEvent s with delta := d } :: es := by
  obtain ⟨es, he⟩ := heldEvents_cons s h0 hh
  refine ⟨es, he, ?_⟩
  apply heldEvents_ext
  · have := heldEvents_length s
    rw [he] at this
    simpa using this
  · intro j hj
    simp only [setRingDelta_queue, setRingDelta_frame] at hj ⊢
    cases j with
    | zero => simp [ringAt, Nat.mod_eq_of_lt hh, headEvent]
    | succ j =>
      have := heldEvents_get s (j + 1) hj
      rw [he, List.getElem?_cons_succ] at this
      rw [List.getElem?_cons_succ, this]
      refine congrArg _ (Eq.symm (ringAt_congr ?_))
      simp only [setRingDelta_queue]
      rw [memRead_memWrite_other]
      intro hx
      have hx' : (s.queue.head + (j + 1)) % s.cfg.queueCap = (s.queue.head + 0) % s.cfg.queueCap := by
        rw [hx, Nat.add_zero, Nat.mod_eq_of_lt hh]
      have := slot_inj (by omega) (by omega) hx'
      omega

/-- `drop_oldest`: the registers (R182). -/
theorem dropOldest_regs (s : State) :
    (dropOldest s).queue.head = (s.queue.head + 1) % s.cfg.queueCap ∧
    (dropOldest s).queue.tail = s.queue.tail ∧ (dropOldest s).queue.count = s.queue.count - 1 ∧
    (dropOldest s).queue.droppedCount = satinc32 s.queue.droppedCount ∧
    (dropOldest s).status = s.status ++ [.error (.queueOverflow (headEvent s))] := by
  unfold dropOldest
  dsimp only
  split <;> simp [ringNext]

/-- `drop_oldest` of the last event leaves the ring (R182). -/
theorem dropOldest_ring_last (s : State) (h : s.queue.count = 1) : (dropOldest s).queue.ring = s.queue.ring := by
  unfold dropOldest
  simp [h]

/-- `drop_oldest` with another event held: only the new head's slot is written, with the merged delta (R182, R187). -/
theorem dropOldest_ring (s : State) (h : 1 < s.queue.count) :
    (dropOldest s).queue.ring = memWrite s.queue.ring ((s.queue.head + 1) % s.cfg.queueCap)
      { ringAt s ((s.queue.head + 1) % s.cfg.queueCap) with
        delta := (ringAt s ((s.queue.head + 1) % s.cfg.queueCap)).delta + (headEvent s).delta } := by
  unfold dropOldest
  dsimp only
  rw [if_pos (by simp; omega)]
  simp [ringNext, headEvent, ringAt]

/-- `drop_oldest` on the held events: the oldest goes, the next absorbs its delta (R182, R189). -/
theorem heldEvents_dropOldest (s : State) (h0 : 0 < s.queue.count) (hh : s.queue.head < s.cfg.queueCap)
    (hc : s.queue.count ≤ s.cfg.queueCap) :
    heldEvents (dropOldest s) = absorb (headEvent s).delta (heldEvents s).tail := by
  obtain ⟨hd, -, hn, -, -⟩ := dropOldest_regs s
  have hcfg : (dropOldest s).cfg = s.cfg := by simp
  by_cases h1 : s.queue.count = 1
  · have : heldEvents s = headEvent s :: heldEvents (dropOldest s) :=
      heldEvents_advance h0 hh hcfg hd hn (dropOldest_ring_last s h1)
    have hl : (heldEvents (dropOldest s)).length = 0 := by simp [hn, h1]
    rw [this, List.tail_cons, List.length_eq_zero_iff.1 hl]
    rfl
  · have h2 : 1 < s.queue.count := by omega
    -- the state after the drop but before the merge
    let u : State := { s with queue.head := (s.queue.head + 1) % s.cfg.queueCap, queue.count := s.queue.count - 1 }
    have hu : heldEvents s = headEvent s :: heldEvents u := heldEvents_advance h0 hh rfl rfl rfl rfl
    have hul : u.queue.head < u.cfg.queueCap := Nat.mod_lt _ (by show 0 < s.cfg.queueCap; omega)
    obtain ⟨es, he, he'⟩ := heldEvents_setHead u ((headEvent u).delta + (headEvent s).delta)
      (by show 0 < s.queue.count - 1; omega) hul (by show s.queue.count - 1 ≤ s.cfg.queueCap; omega)
    rw [hu, List.tail_cons, he, absorb]
    rw [← he']
    have hring : (dropOldest s).queue.ring =
        (setRingDelta u.queue.head ((headEvent u).delta + (headEvent s).delta) u).queue.ring := dropOldest_ring s h2
    unfold heldEvents
    rw [hn, hd, hcfg]
    apply List.map_congr_left
    intro j _
    exact ringAt_congr (by rw [hring])

/-- The total pending time with a delta absorbed by the oldest event, modulo 2^32 (R189). -/
theorem totalDelta_absorb (d : Word32) (es : List Event) (h : es ≠ []) :
    totalDelta (absorb d es) % 2 ^ 32 = (d.toNat + totalDelta es) % 2 ^ 32 := by
  cases es with
  | nil => exact absurd rfl h
  | cons e es =>
    simp only [absorb, totalDelta, BitVec.toNat_add]
    omega

theorem totalDelta_append (es : List Event) (e : Event) : totalDelta (es ++ [e]) = totalDelta es + e.delta.toNat := by
  induction es with
  | nil => simp [totalDelta]
  | cons x es ih => simp [totalDelta, ih]; omega

/-- `push`: what it writes besides the ring (R181). -/
theorem push_regs (e : Event) (s : State) (h : s.queue.count ≠ s.cfg.queueCap) :
    push e s = flowUpdate (storeTail e s) := by
  unfold push
  rw [if_neg h]

theorem push_full (e : Event) (s : State) (h : s.queue.count = s.cfg.queueCap) :
    push e s = flowUpdate (storeTail e (dropOldest s)) := by
  unfold push
  rw [if_pos h]

/-- `flow_update` leaves the queue, so the held events. -/
@[simp] theorem heldEvents_flowUpdate (s : State) : heldEvents (flowUpdate s) = heldEvents s :=
  heldEvents_congr (by simp) (by simp)

/-- A push with room appends the event (R181, R190). -/
theorem heldEvents_push (e : Event) (s : State) (q : QueueOk s) (h : s.queue.count < s.cfg.queueCap) :
    heldEvents (push e s) = heldEvents s ++ [e] := by
  rw [push_regs e s (by omega), heldEvents_flowUpdate, heldEvents_storeTail e s h q.tail_eq]

/-- `drop_oldest` keeps the ring's registers in agreement. -/
theorem queueOk_dropOldest (s : State) (q : QueueOk s) (h : 0 < s.queue.count) : QueueOk (dropOldest s) := by
  obtain ⟨hd, ht, hn, -, -⟩ := dropOldest_regs s
  have hcfg : (dropOldest s).cfg = s.cfg := by simp
  have hpos : 0 < s.cfg.queueCap := by have := q.head_lt; omega
  have q1 := q.count_le
  refine ⟨by rw [hn, hcfg]; omega, by rw [hd, hcfg]; exact Nat.mod_lt _ hpos, ?_, by simpa using q.peak_le, ?_⟩
  · rw [ht, hd, hn, hcfg, slot_succ, q.tail_eq]
    congr 2
    omega
  · intro j hj
    rw [hn] at hj
    rw [hd, hcfg, slot_succ]
    have hl := q.live (j + 1) (by omega)
    by_cases h1 : s.queue.count = 1
    · omega
    · rw [dropOldest_ring s (by omega)]
      exact isSome_memWrite _ _ _ _ hl

/-- The store of a push keeps the ring's registers in agreement. -/
theorem queueOk_storeTail (e : Event) (s : State) (q : QueueOk s) (h : s.queue.count < s.cfg.queueCap) :
    QueueOk (storeTail e s) := by
  have hpos : 0 < s.cfg.queueCap := by omega
  have q4 := q.peak_le
  refine ⟨by simp; omega, by simpa using q.head_lt, ?_, by simp; omega, ?_⟩
  · simp [ringNext, q.tail_eq, Nat.mod_add_mod, Nat.add_assoc]
  · intro j hj
    simp only [storeTail_queue, storeTail_frame] at hj ⊢
    by_cases hjc : j = s.queue.count
    · subst hjc; simp [q.tail_eq]
    · exact isSome_memWrite _ _ _ _ (q.live j (by omega))

/-- The ring's agreement does not see the flow flag. -/
theorem queueOk_congr {s t : State} (q : QueueOk s) (hq : t.queue = s.queue) (hc : t.cfg = s.cfg)
    (hp : t.tel.queuePeak = s.tel.queuePeak) : QueueOk t := by
  refine ⟨?_, ?_, ?_, ?_, ?_⟩ <;> rw [hq] at * <;> rw [hc] at *
  · exact q.count_le
  · exact q.head_lt
  · exact q.tail_eq
  · rw [hp]; exact q.peak_le
  · exact q.live

/-- A push keeps the ring's registers in agreement (R48 items 1 and 2). -/
theorem queueOk_push (e : Event) (s : State) (q : QueueOk s) (h2 : 2 ≤ s.cfg.queueCap) : QueueOk (push e s) := by
  by_cases h : s.queue.count = s.cfg.queueCap
  · rw [push_full e s h]
    have q1 := queueOk_dropOldest s q (by omega)
    refine queueOk_congr (queueOk_storeTail e _ q1 ?_) (by simp) (by simp) (by simp)
    rw [(dropOldest_regs s).2.2.1]
    simp
    omega
  · rw [push_regs e s h]
    have := q.count_le
    exact queueOk_congr (queueOk_storeTail e s q (by omega)) (by simp) (by simp) (by simp)

/-- `pop` keeps the ring's registers in agreement. -/
theorem queueOk_popHead (s : State) (q : QueueOk s) (h : 0 < s.queue.count) : QueueOk (popHead s) := by
  have hpos : 0 < s.cfg.queueCap := by have := q.head_lt; omega
  have q1 := q.count_le
  refine ⟨by simp; omega, by simpa [ringNext] using Nat.mod_lt _ hpos, ?_, by simpa using q.peak_le, ?_⟩
  · simp only [popHead_queue, popHead_frame, ringNext]
    rw [slot_succ, q.tail_eq]
    congr 2
    omega
  · intro j hj
    simp only [popHead_queue, popHead_frame, ringNext] at hj ⊢
    rw [slot_succ]
    exact q.live (j + 1) (by omega)

/-- The queue's reset keeps the ring's registers in agreement. -/
theorem queueOk_queueReset (s : State) (q : QueueOk s) : QueueOk (queueReset s) := by
  have hpos : 0 < s.cfg.queueCap := by have := q.head_lt; omega
  exact ⟨by simp, by simpa using hpos, by simp, by simpa using q.peak_le, by simp⟩

/-- Writing a delta keeps the ring's registers in agreement. -/
theorem queueOk_setRingDelta (i : Nat) (d : Word32) (s : State) (q : QueueOk s) : QueueOk (setRingDelta i d s) := by
  refine ⟨by simpa using q.count_le, by simpa using q.head_lt, by simpa using q.tail_eq, by simpa using q.peak_le, ?_⟩
  intro j hj
  simp only [setRingDelta_queue, setRingDelta_frame] at hj ⊢
  exact isSome_memWrite _ _ _ _ (q.live j hj)

end Sys2Proof.Laws
end

