-- ==== Sys2Proof/Laws/Scheduler.lean ====
section
/-!
SUPPORT. What the scheduler's shared operations do, said once (spec/41_scheduler.md): which calls an applied event, a drain, a
segment loop and a sample add to each cell's trace, and that a sample leaves no event due.
-/

namespace Sys2Proof.Laws

open Sys2Proof.Machine

/-- No event is due: the queue is empty or its head has cycles left (R48 item 10). -/
def NotDue (s : State) : Prop := s.queue.count = 0 ∨ 0 < headDelta s

/-! ### Clock arguments in a trace -/

@[simp] theorem clockRuns_append (xs ys : List CellCall) : clockRuns (xs ++ ys) = clockRuns xs ++ clockRuns ys := by
  induction xs with
  | nil => rfl
  | cons k xs ih => cases k <;> simp [clockRuns, ih]

theorem clockedCycles_eq (ks : List CellCall) : clockedCycles ks = (clockRuns ks).sum := by
  induction ks with
  | nil => rfl
  | cons k ks ih => cases k <;> simp [clockedCycles, clockRuns, ih]

theorem clockedCycles_append (xs ys : List CellCall) :
    clockedCycles (xs ++ ys) = clockedCycles xs + clockedCycles ys := by simp [clockedCycles_eq]

/-- Applied events clock nothing. -/
@[simp] theorem clockRuns_eventWrites (cfg : Config) (e : Engine) (c : CellId) (es : List Event) :
    clockRuns (eventWrites cfg e c es) = [] := by
  induction es with
  | nil => rfl
  | cons x es ih =>
    unfold eventWrites at ih ⊢
    rw [List.filterMap_cons]
    split
    · exact ih
    · rename_i k hk
      split at hk
      · cases hg : gatedWrite cfg e.voiceMask e.filterEn x.addr x.value <;> rw [hg] at hk <;> simp at hk
        subst hk
        simpa [clockRuns] using ih
      · simp at hk

theorem eventWrites_append (cfg : Config) (e : Engine) (c : CellId) (xs ys : List Event) :
    eventWrites cfg e c (xs ++ ys) = eventWrites cfg e c xs ++ eventWrites cfg e c ys := by simp [eventWrites]

/-! ### Applying events -/

/-- A gated write on cell 0 (R143). -/
theorem cellWrite_a (a : SidAddr) (v : Byte) (s : State) :
    cellWrite .a a v s = { s with cellA := { s.cellA with trace := s.cellA.trace ++
      ((gatedWrite s.cfg s.engine.voiceMask s.engine.filterEn a v).map (CellCall.write a)).toList } } := by
  unfold cellWrite
  split <;> rename_i h <;> rw [h] <;> simp [callCell]

/-- A gated write on cell 1 (R143). -/
theorem cellWrite_b (a : SidAddr) (v : Byte) (s : State) :
    cellWrite .b a v s = { s with cellB := { s.cellB with trace := s.cellB.trace ++
      ((gatedWrite s.cfg s.engine.voiceMask s.engine.filterEn a v).map (CellCall.write a)).toList } } := by
  unfold cellWrite
  split <;> rename_i h <;> rw [h] <;> simp [callCell]

theorem eventWrites_one (cfg : Config) (e : Engine) (c : CellId) (x : Event) :
    eventWrites cfg e c [x] = if selects x.chipMask c then
      ((gatedWrite cfg e.voiceMask e.filterEn x.addr x.value).map (CellCall.write x.addr)).toList else [] := by
  unfold eventWrites
  rw [List.filterMap_cons, List.filterMap_nil]
  by_cases h : selects x.chipMask c = true
  · rw [if_pos h, if_pos h]
    cases gatedWrite cfg e.voiceMask e.filterEn x.addr x.value <;> rfl
  · rw [if_neg h, if_neg h]

/-- Applying an event appends its writes to the selected cells and does nothing else (R142). -/
theorem applyEvent_eq (x : Event) (s : State) :
    applyEvent x s = { s with
      cellA := { s.cellA with trace := s.cellA.trace ++ eventWrites s.cfg s.engine .a [x] }
      cellB := { s.cellB with trace := s.cellB.trace ++ eventWrites s.cfg s.engine .b [x] } } := by
  unfold applyEvent cellWriteIf
  rw [eventWrites_one, eventWrites_one]
  by_cases ha : selects x.chipMask .a = true <;> by_cases hb : selects x.chipMask .b = true <;>
    simp [ha, hb, cellWrite_a, cellWrite_b]

/-! ### The eager drain -/

/-- What a drain does (R144): the registers of the queue, and the events applied. -/
theorem drainLoop_spec (n : Nat) (s : State) :
    ∃ due : List Event, (∀ e ∈ due, e.delta = 0) ∧
      (drainLoop n s).cellA = { s.cellA with trace := s.cellA.trace ++ eventWrites s.cfg s.engine .a due } ∧
      (drainLoop n s).cellB = { s.cellB with trace := s.cellB.trace ++ eventWrites s.cfg s.engine .b due } ∧
      (drainLoop n s).queue =
        { s.queue with head := (drainLoop n s).queue.head, count := (drainLoop n s).queue.count } ∧
      (drainLoop n s).queue.count ≤ s.queue.count ∧
      (s.queue.count ≤ n → NotDue (drainLoop n s)) ∧
      (QueueOk s → QueueOk (drainLoop n s) ∧ heldEvents s = due ++ heldEvents (drainLoop n s)) := by
  induction n generalizing s with
  | zero =>
    refine ⟨[], by simp, by simp [drainLoop, eventWrites], by simp [drainLoop, eventWrites], rfl, le_refl _, ?_, ?_⟩
    · intro h; left; simp [drainLoop]; omega
    · intro q; exact ⟨q, rfl⟩
  | succ n ih =>
    by_cases h : s.queue.count > 0 ∧ headDelta s = 0
    · have e : drainLoop (n + 1) s = drainLoop n (applyEvent (headEvent s) (popHead s)) := by
        rw [drainLoop]; exact if_pos h
      obtain ⟨due, d1, d2, d3, d4, d5, d6, d7⟩ := ih (applyEvent (headEvent s) (popHead s))
      rw [e]
      have hq : (applyEvent (headEvent s) (popHead s)).queue = (popHead s).queue := by simp
      refine ⟨headEvent s :: due, ?_, ?_, ?_, ?_, ?_, ?_, ?_⟩
      · intro x hx
        rcases List.mem_cons.1 hx with rfl | hx
        · exact BitVec.eq_of_toNat_eq h.2
        · exact d1 x hx
      · rw [d2, ← List.singleton_append, eventWrites_append, applyEvent_eq]; simp
      · rw [d3, ← List.singleton_append, eventWrites_append, applyEvent_eq]; simp
      · rw [d4, hq]; simp
      · rw [hq] at d5; simp at d5; omega
      · intro hn; apply d6; rw [hq]; simp; omega
      · intro q
        have q1 : QueueOk (applyEvent (headEvent s) (popHead s)) :=
          queueOk_congr (queueOk_popHead s q h.1) hq (by simp) (by simp)
        refine ⟨(d7 q1).1, ?_⟩
        rw [heldEvents_popHead s h.1 q.head_lt, ← heldEvents_congr hq (by simp), (d7 q1).2]
        rfl
    · have e : drainLoop (n + 1) s = s := by rw [drainLoop]; exact if_neg h
      rw [e]
      refine ⟨[], by simp, by simp [eventWrites], by simp [eventWrites], rfl, le_refl _, ?_, ?_⟩
      · intro _; unfold NotDue; omega
      · intro q; exact ⟨q, rfl⟩

/-- `drain_zero` leaves no event due (R144). -/
theorem notDue_drainZero (s : State) : NotDue (drainZero s) := by
  obtain ⟨_, -, -, -, -, -, h, -⟩ := drainLoop_spec s.queue.count s
  exact h (le_refl _)

/-- `drain_zero` never adds an event. -/
theorem drainZero_count_le (s : State) : (drainZero s).queue.count ≤ s.queue.count := by
  obtain ⟨_, -, -, -, -, h, -⟩ := drainLoop_spec s.queue.count s
  exact h

theorem queueOk_drainZero (s : State) (q : QueueOk s) : QueueOk (drainZero s) := by
  obtain ⟨_, -, -, -, -, -, -, h⟩ := drainLoop_spec s.queue.count s
  exact (h q).1

/-- What a drain adds to the traces clocks nothing. -/
theorem drainZero_traces (s : State) : ∃ ka kb : List CellCall,
    (drainZero s).cellA = { s.cellA with trace := s.cellA.trace ++ ka } ∧
    (drainZero s).cellB = { s.cellB with trace := s.cellB.trace ++ kb } ∧ clockRuns ka = [] ∧ clockRuns kb = [] := by
  obtain ⟨due, -, h1, h2, -⟩ := drainLoop_spec s.queue.count s
  exact ⟨_, _, h1, h2, by simp, by simp⟩

/-! ### The segment loop -/

@[simp] theorem segments_zero (n : Nat) (s : State) : segments n 0 s = s := by
  cases n <;> simp [segments]

/-- The head's delta after `consume_cycles` (R192). -/
theorem headDelta_consumeCycles (run : Nat) (s : State) (h : run ≤ headDelta s) :
    headDelta (consumeCycles run s) = headDelta s - run := by
  have hlt : headDelta s < 2 ^ 32 := (headEvent s).delta.isLt
  unfold consumeCycles
  simp only [headDelta, headEvent, ringAt, setRingDelta_queue, memRead_memWrite_same, Option.getD_some,
    BitVec.toNat_ofNat]
  rw [Nat.mod_eq_of_lt]
  · omega

/-- The segment loop clocks both cells by the same runs, each at least 1, adding up to the cycles asked for, keeps the
ring's agreement and ends with no event due (R139, R153, R155, R156, R353). -/
theorem segments_spec (n cycles : Nat) (s : State) (hd : NotDue s) (hn : s.queue.count + 1 ≤ n) :
    ∃ ka kb : List CellCall,
      (segments n cycles s).cellA = { s.cellA with trace := s.cellA.trace ++ ka } ∧
      (segments n cycles s).cellB = { s.cellB with trace := s.cellB.trace ++ kb } ∧
      clockRuns ka = clockRuns kb ∧ (clockRuns ka).sum = cycles ∧ (∀ r ∈ clockRuns ka, 1 ≤ r) ∧
      NotDue (segments n cycles s) ∧ (segments n cycles s).queue.count ≤ s.queue.count := by
  induction n generalizing cycles s with
  | zero => omega
  | succ n ih =>
    by_cases h0 : cycles = 0
    · subst h0
      rw [segments_zero]
      exact ⟨[], [], by simp, by simp, rfl, rfl, by simp [clockRuns], hd, le_refl _⟩
    rw [segments, if_neg h0]
    dsimp only
    have hq1 : (clockBoth (segmentRun cycles s) s).queue = s.queue := by simp
    by_cases hc : s.queue.count > 0
    · -- an event is held
      have hdel : 0 < headDelta s := by
        rcases hd with hd | hd
        · omega
        · exact hd
      have hrun : segmentRun cycles s = min cycles (headDelta s) := if_pos hc
      have hh1 : headDelta (clockBoth (segmentRun cycles s) s) = headDelta s := by
        unfold headDelta headEvent ringAt; rw [hq1]
      have hh2 : headDelta (consumeCycles (segmentRun cycles s) (clockBoth (segmentRun cycles s) s)) =
          headDelta s - segmentRun cycles s := by
        rw [headDelta_consumeCycles _ _ (by rw [hh1]; omega), hh1]
      rw [if_pos (by rw [hq1]; exact hc)]
      by_cases hz : headDelta s - segmentRun cycles s = 0
      · rw [if_pos (by rw [hh2]; exact hz)]
        generalize hu : consumeCycles (segmentRun cycles s) (clockBoth (segmentRun cycles s) s) = u at hh2 ⊢
        have hua : u.cellA = { s.cellA with trace := s.cellA.trace ++ [.clock (segmentRun cycles s)] } := by
          rw [← hu]; simp [clockBoth]
        have hub : u.cellB = { s.cellB with trace := s.cellB.trace ++ [.clock (segmentRun cycles s)] } := by
          rw [← hu]; simp [clockBoth]
        have huc : u.queue.count = s.queue.count := by rw [← hu]; simp [consumeCycles]
        obtain ⟨da, db, e1, e2, e3, e4⟩ := drainZero_traces (applyEvent (headEvent u) (popHead u))
        have hcnt := drainZero_count_le (applyEvent (headEvent u) (popHead u))
        simp only [applyEvent_frame, popHead_queue, huc] at hcnt
        obtain ⟨ka, kb, i1, i2, i3, i4, i5, i6, i7⟩ := ih (cycles - segmentRun cycles s)
          (drainZero (applyEvent (headEvent u) (popHead u))) (notDue_drainZero _) (by omega)
        refine ⟨.clock (segmentRun cycles s) :: (eventWrites (popHead u).cfg (popHead u).engine .a [headEvent u] ++ da ++ ka),
          .clock (segmentRun cycles s) :: (eventWrites (popHead u).cfg (popHead u).engine .b [headEvent u] ++ db ++ kb),
          ?_, ?_, ?_, ?_, ?_, i6, by omega⟩
        · rw [i1, e1, applyEvent_eq]; simp [hua]
        · rw [i2, e2, applyEvent_eq]; simp [hub]
        · simp [clockRuns, e3, e4, i3]
        · simp [clockRuns, e3, i4]; omega
        · simp only [clockRuns, clockRuns_append, clockRuns_eventWrites, e3, List.nil_append, List.mem_cons]
          rintro r (rfl | hr)
          · omega
          · exact i5 r hr
      · rw [if_neg (by rw [hh2]; exact hz), show cycles - segmentRun cycles s = 0 by omega, segments_zero]
        refine ⟨[.clock (segmentRun cycles s)], [.clock (segmentRun cycles s)], ?_, ?_, rfl, ?_, ?_, ?_, ?_⟩
        · simp [clockBoth]
        · simp [clockBoth]
        · simp [clockRuns]; omega
        · simp [clockRuns]; omega
        · right; omega
        · simp [consumeCycles]
    · -- the queue is empty
      have hrun : segmentRun cycles s = cycles := if_neg hc
      rw [if_neg (by rw [hq1]; exact hc), hrun, Nat.sub_self, segments_zero]
      refine ⟨[.clock cycles], [.clock cycles], by simp [clockBoth], by simp [clockBoth], rfl, by simp [clockRuns],
        ?_, ?_, by simp⟩
      · simp [clockRuns]; omega
      · left; simp; omega

/-! ### The induction of the scheduler, once -/

/-- What the primitive steps of the scheduler keep, applying an event keeps. -/
theorem applyEvent_induct {P : State → Prop} (hcall : ∀ s c k, P s → P (callCell c k s)) (e : Event) (s : State)
    (h : P s) : P (applyEvent e s) := by
  have hw : ∀ c a v s, P s → P (cellWrite c a v s) := by
    intro c a v s h
    unfold cellWrite
    split
    · exact h
    · exact hcall _ _ _ h
  have hi : ∀ c s, P s → P (cellWriteIf e c s) := by
    intro c s h
    unfold cellWriteIf
    split
    · exact hw _ _ _ _ h
    · exact h
  exact hi _ _ (hi _ _ h)

/-- ... and so does a drain ... -/
theorem drainZero_induct {P : State → Prop} (hcall : ∀ s c k, P s → P (callCell c k s))
    (hpop : ∀ s, P s → 0 < s.queue.count → P (popHead s)) (s : State) (h : P s) : P (drainZero s) := by
  have key : ∀ n s, P s → P (drainLoop n s) := by
    intro n
    induction n with
    | zero => intro s h; exact h
    | succ n ih =>
      intro s h
      rw [drainLoop]
      split
      · rename_i hc
        exact ih _ (applyEvent_induct hcall _ _ (hpop s h hc.1))
      · exact h
  exact key _ _ h

/-- ... and the segment loop ... -/
theorem segments_induct {P : State → Prop} (hcall : ∀ s c k, P s → P (callCell c k s))
    (hpop : ∀ s, P s → 0 < s.queue.count → P (popHead s))
    (hset : ∀ s d, P s → P (setRingDelta s.queue.head d s)) (n cycles : Nat) (s : State) (h : P s) :
    P (segments n cycles s) := by
  induction n generalizing cycles s with
  | zero => exact h
  | succ n ih =>
    rw [segments]
    split
    · exact h
    · dsimp only
      have h1 : P (clockBoth (segmentRun cycles s) s) := hcall _ _ _ (hcall _ _ _ h)
      have h2 : P (consumeCycles (segmentRun cycles s) (clockBoth (segmentRun cycles s) s)) := hset _ _ h1
      split
      · rename_i hc
        split
        · refine ih _ _ (drainZero_induct hcall hpop _ (applyEvent_induct hcall _ _ (hpop _ h2 ?_)))
          simpa [consumeCycles] using hc
        · exact ih _ _ h2
      · exact ih _ _ h1

/-- ... and a whole sample, given its first step (R141). -/
theorem renderSample_induct {P : State → Prop} (hcall : ∀ s c k, P s → P (callCell c k s))
    (hpop : ∀ s, P s → 0 < s.queue.count → P (popHead s))
    (hset : ∀ s d, P s → P (setRingDelta s.queue.head d s)) (s : State) (h : P (takeBudget s)) :
    P (renderSample s) := by
  have h1 : P (advanceSample s) := segments_induct hcall hpop hset _ _ _ (drainZero_induct hcall hpop _ h)
  exact hcall (callCell .a .output (advanceSample s)) .b .output (hcall _ .a .output h1)

/-! ### One sample -/

/-- Step 1 (R137). -/
theorem takeBudget_eq (s : State) :
    takeBudget s = { s with
      engine := { s.engine with acc := nextAcc s.cfg s.engine.acc }
      status := if zeroCycle s.cfg s.engine.acc then s.status ++ [.error .zeroCycle] else s.status } := by
  unfold takeBudget
  split <;> simp [raise, emit]

/-- Steps 1 to 3 of a sample: both cells clocked by the same runs, adding up to the budget, and no event left due (R137
to R139, R155, R156). -/
theorem advanceSample_spec (s : State) :
    ∃ ka kb : List CellCall,
      (advanceSample s).cellA = { s.cellA with trace := s.cellA.trace ++ ka } ∧
      (advanceSample s).cellB = { s.cellB with trace := s.cellB.trace ++ kb } ∧
      clockRuns ka = clockRuns kb ∧ clockedCycles ka = cycleBudget s.cfg s.engine.acc ∧ (∀ r ∈ clockRuns ka, 1 ≤ r) ∧
      NotDue (advanceSample s) ∧ (advanceSample s).queue.count ≤ s.queue.count ∧
      (advanceSample s).engine = { s.engine with acc := nextAcc s.cfg s.engine.acc } ∧
      (advanceSample s).status =
        (if zeroCycle s.cfg s.engine.acc then s.status ++ [.error .zeroCycle] else s.status) := by
  unfold advanceSample
  dsimp only
  obtain ⟨da, db, d1, d2, d3, d4⟩ := drainZero_traces (takeBudget s)
  have hcnt := drainZero_count_le (takeBudget s)
  obtain ⟨ka, kb, i1, i2, i3, i4, i5, i6, i7⟩ := segments_spec ((drainZero (takeBudget s)).queue.count + 1)
    (cycleBudget s.cfg s.engine.acc) (drainZero (takeBudget s)) (notDue_drainZero _) (le_refl _)
  refine ⟨da ++ ka, db ++ kb, ?_, ?_, ?_, ?_, ?_, i6, ?_, ?_, ?_⟩
  · rw [i1, d1, takeBudget_eq]; simp
  · rw [i2, d2, takeBudget_eq]; simp
  · simp [d3, d4, i3]
  · simp [clockedCycles_eq, d3, i4]
  · simpa [d3] using i5
  · simp only [takeBudget_frame] at hcnt; exact le_trans i7 hcnt
  · simp [takeBudget_eq]
  · simp [takeBudget_eq]

/-- A sample keeps the ring's registers in agreement. -/
theorem queueOk_renderSample (s : State) (q : QueueOk s) : QueueOk (renderSample s) := by
  refine renderSample_induct (P := QueueOk) (fun s c k q => ?_) queueOk_popHead (fun s d q => queueOk_setRingDelta _ d s q) s
    (queueOk_congr q (by simp) (by simp) (by simp))
  exact queueOk_congr q (by simp) (by simp) (by simp)

end Sys2Proof.Laws
end

