-- ==== Sys2Proof/Laws/Invariant.lean ====
section
/-!
SUPPORT. The parts of the state invariant (spec/10_state.md R48): what each depends on, and that the shared operations keep
them. The statement about a whole step is an obligation and is not proved here.
-/

namespace Sys2Proof.Laws

open Sys2Proof.Machine

/-! ### What each part depends on -/

theorem parserOk_congr {s t : State} (h : ParserOk s) (hp : t.parser = s.parser) (hc : t.cfg = s.cfg) : ParserOk t := by
  refine ⟨?_, ?_, ?_, ?_⟩ <;> rw [hp]
  · rw [hc]; exact h.buf_le
  · exact h.events
  · exact h.command
  · exact h.header

theorem sessionOk_congr {s t : State} (h : SessionOk s) (hp : t.parser = s.parser) (hs : t.sess = s.sess)
    (hx : t.txIdx = s.txIdx) : SessionOk t := by
  refine ⟨?_, ?_⟩ <;> rw [hs]
  · rw [hp]; exact h.idle
  · rw [hx]; exact h.handshake

/-- While the session streams, its part asks nothing of the parser (R48 item 9). -/
theorem sessionOk_streaming {t : State} (h : t.sess = .streaming) : SessionOk t :=
  ⟨fun hn => absurd h hn, fun ha => by rw [h] at ha; cases ha⟩

theorem clockOk_congr {s t : State} (h : ClockOk s) (ha : t.engine.acc = s.engine.acc) (hf : t.paused = s.paused)
    (hn : t.queue.count = s.queue.count) (hp : t.pump = s.pump) (hw : t.recent.wr = s.recent.wr) (hc : t.cfg = s.cfg) :
    ClockOk t := by
  refine ⟨?_, ?_, ?_, ?_, ?_⟩
  · rw [ha, hc]; exact h.acc_lt
  · rw [hf, hn, hc]; exact h.flow
  · rw [hp]; exact h.pump_idle
  · rw [hp, hc]; exact h.pump_idx
  · rw [hw, hc]; exact h.recent_wr

theorem memoryOk_congr {s t : State} (h : MemoryOk s) (hr : t.queue.ring = s.queue.ring)
    (hb : t.recent.bytes = s.recent.bytes) (ha : t.pool.audio = s.pool.audio) (hc : t.cfg = s.cfg) : MemoryOk t := by
  refine ⟨?_, ?_, ?_, ?_, ?_⟩
  · rw [hr]; exact h.ring_wf
  · rw [hb]; exact h.recent_wf
  · rw [ha]; exact h.audio_wf
  · rw [hr, hc]; exact h.ring_lt
  · rw [hb, hc]; exact h.recent_lt

/-- The configuration's bounds, as numbers (R336). -/
theorem valid_bounds {c : Config} (h : c.valid = true) :
    2 ≤ c.queueCap ∧ 12 ≤ c.bufSize ∧ 1 ≤ c.recentSize ∧ 1 ≤ c.frames ∧ 2 ≤ c.nbuf ∧ 0 < c.clkHz ∧ 0 < c.fsHz ∧
    c.lowWm < c.highWm ∧ c.highWm ≤ c.queueCap := by
  simp only [Config.valid, Bool.and_eq_true, decide_eq_true_eq] at h
  obtain ⟨⟨⟨⟨⟨⟨⟨⟨⟨⟨⟨⟨v1, v2⟩, v3⟩, v4⟩, v5⟩, v6⟩, _⟩, v8⟩, _⟩, _⟩, v11⟩, v12⟩, _⟩ := h
  exact ⟨v1, v2, v3, v4, v5, v6, v8, v11, v12⟩

/-! ### What a whole sample keeps -/

/-- The part of the invariant that the queue's operations and a sample keep among themselves. -/
structure QueueSide (s : State) : Prop where
  low : s.cfg.lowWm < s.cfg.highWm
  regs : QueueOk s
  ring_wf : Memory.wf s.queue.ring
  ring_lt : ∀ p ∈ s.queue.ring, p.1 < s.cfg.queueCap
  flow : s.paused = false → s.queue.count < s.cfg.highWm

theorem queueSide_congr {s t : State} (h : QueueSide s) (hq : t.queue = s.queue) (hc : t.cfg = s.cfg)
    (hf : t.paused = s.paused) (hp : t.tel.queuePeak = s.tel.queuePeak) : QueueSide t := by
  refine ⟨?_, queueOk_congr h.regs hq hc hp, ?_, ?_, ?_⟩
  · rw [hc]; exact h.low
  · rw [hq]; exact h.ring_wf
  · rw [hq, hc]; exact h.ring_lt
  · rw [hf, hq, hc]; exact h.flow

theorem queueSide_callCell (s : State) (c : CellId) (k : CellCall) (h : QueueSide s) : QueueSide (callCell c k s) :=
  queueSide_congr h (by simp) (by simp) (by simp) (by simp)

theorem queueSide_popHead (s : State) (h : QueueSide s) (h0 : 0 < s.queue.count) : QueueSide (popHead s) := by
  refine ⟨by simpa using h.low, queueOk_popHead s h.regs h0, by simpa using h.ring_wf, by simpa using h.ring_lt, ?_⟩
  intro hf
  simp only [popHead_paused] at hf
  simpa using pausedAt_false _ _ _ h.low hf

theorem queueSide_setHead (s : State) (d : Word32) (h : QueueSide s) : QueueSide (setRingDelta s.queue.head d s) := by
  refine ⟨by simpa using h.low, queueOk_setRingDelta _ d s h.regs, ?_, ?_, by simpa using h.flow⟩
  · simpa using wf_memWrite _ _ _ h.ring_wf
  · simpa using lt_memWrite _ _ h.regs.head_lt h.ring_lt

/-- A sample keeps it (R141). -/
theorem queueSide_renderSample (s : State) (h : QueueSide s) : QueueSide (renderSample s) :=
  renderSample_induct (P := QueueSide) queueSide_callCell queueSide_popHead queueSide_setHead s
    (queueSide_congr h (by simp) (by simp) (by simp) (by simp))

/-- A push keeps it (R181). -/
theorem queueSide_push (e : Event) (s : State) (h : QueueSide s) (h2 : 2 ≤ s.cfg.queueCap) : QueueSide (push e s) := by
  refine ⟨by simpa using h.low, queueOk_push e s h.regs h2, ?_, ?_, ?_⟩
  · by_cases hc : s.queue.count = s.cfg.queueCap
    · rw [push_full e s hc]
      simp only [flowUpdate_frame, storeTail_queue]
      rw [dropOldest_ring s (by omega)]
      exact wf_memWrite _ _ _ (wf_memWrite _ _ _ h.ring_wf)
    · rw [push_regs e s hc]
      simpa using wf_memWrite _ _ _ h.ring_wf
  · have ht : s.queue.tail < s.cfg.queueCap := by rw [h.regs.tail_eq]; exact Nat.mod_lt _ (by omega)
    by_cases hc : s.queue.count = s.cfg.queueCap
    · rw [push_full e s hc]
      simp only [flowUpdate_frame, storeTail_queue, storeTail_frame, dropOldest_frame]
      rw [dropOldest_ring s (by omega), (dropOldest_regs s).2.1]
      exact lt_memWrite _ _ ht (lt_memWrite _ _ (Nat.mod_lt _ (by omega)) h.ring_lt)
    · rw [push_regs e s hc]
      simpa using lt_memWrite _ _ ht h.ring_lt
  · intro hf
    by_cases hc : s.queue.count = s.cfg.queueCap
    · rw [push_full e s hc] at hf ⊢
      simp only [flowUpdate_paused, storeTail_frame, dropOldest_frame, flowUpdate_frame] at hf ⊢
      exact pausedAt_false _ _ _ h.low hf
    · rw [push_regs e s hc] at hf ⊢
      simp only [flowUpdate_paused, storeTail_frame, flowUpdate_frame] at hf ⊢
      exact pausedAt_false _ _ _ h.low hf

/-- The queue's reset keeps it (R186). -/
theorem queueSide_queueReset (s : State) (h : QueueSide s) : QueueSide (queueReset s) := by
  have := h.low
  refine ⟨by simpa using h.low, queueOk_queueReset s h.regs, by simpa using h.ring_wf, by simpa using h.ring_lt, ?_⟩
  intro _
  simp
  omega

/-- The queue side of an invariant state. -/
theorem Inv_queueSide {s : State} (h : Inv s) : QueueSide s :=
  ⟨(valid_bounds h.valid).2.2.2.2.2.2.2.1, h.queue, h.memory.ring_wf, h.memory.ring_lt, h.clock.flow⟩

/-- An invariant state is put together from its queue side and the rest. -/
theorem Inv_of {t : State} (hv : t.cfg.valid = true) (hq : QueueSide t) (hp : ParserOk t) (hs : SessionOk t)
    (ha : t.engine.acc < t.cfg.fsHz) (hi : t.pump.active = false → t.pump.idx = 0) (hx : t.pump.idx ≤ t.cfg.frames)
    (hw : t.recent.wr < t.cfg.recentSize) (hrw : Memory.wf t.recent.bytes) (haw : Memory.wf t.pool.audio)
    (hrl : ∀ p ∈ t.recent.bytes, p.1 < t.cfg.recentSize) : Inv t :=
  ⟨hv, hq.regs, hp, hs, ⟨ha, hq.flow, hi, hx, hw⟩, ⟨hq.ring_wf, hrw, haw, hq.ring_lt, hrl⟩⟩

/-- An operation that leaves queue, flow flag, session, parser, residual, pump, recent bytes and audio alone keeps the invariant. -/
theorem Inv_congr {s t : State} (h : Inv s) (hc : t.cfg = s.cfg) (hq : t.queue = s.queue) (hf : t.paused = s.paused)
    (hk : t.tel.queuePeak = s.tel.queuePeak) (hp : t.parser = s.parser) (hs : t.sess = s.sess) (hx : t.txIdx = s.txIdx)
    (ha : t.engine.acc = s.engine.acc) (hu : t.pump = s.pump) (hr : t.recent = s.recent)
    (hd : t.pool.audio = s.pool.audio) : Inv t :=
  ⟨by rw [hc]; exact h.valid, queueOk_congr h.queue hq hc hk, parserOk_congr h.parser hp hc,
    sessionOk_congr h.session hp hs hx, clockOk_congr h.clock ha hf (by rw [hq]) hu (by rw [hr]) hc,
    memoryOk_congr h.memory (by rw [hq]) (by rw [hr]) hd hc⟩

end Sys2Proof.Laws
end

