-- ==== Sys2Proof/Laws/Parser.lean ====
section
/-!
SUPPORT. What the parser's shared operations leave in the parser registers, and when they are enabled (spec/44_frame_parser.md
R200, R204 to R207).
-/

namespace Sys2Proof.Laws

open Sys2Proof.Machine

/-- A parser operation is enabled while streaming, in its state, with its bytes in the buffer (R200). -/
theorem parserReady_iff (p : ParserState) (s : State) :
    parserReady p s = true ↔ s.sess = .streaming ∧ s.parser.pstate = p ∧ parserNeed s.cfg p ≤ s.parser.buf.length := by
  simp only [parserReady, Bool.and_eq_true, decide_eq_true_eq]; tauto

/-- A header has at least ten bytes, a record at least six (R85). -/
theorem unit_len_bounds (h : HdrVariant) (r : RecVariant) : 10 ≤ h.len ∧ h.len ≤ 12 ∧ 6 ≤ r.len ∧ r.len ≤ 8 := by
  cases h <;> cases r <;> simp [HdrVariant.len, RecVariant.len]

/-- Every parser operation needs four bytes or more (R200). -/
theorem four_le_parserNeed (cfg : Config) (p : ParserState) : 4 ≤ parserNeed cfg p ∧ parserNeed cfg p ≤ 12 := by
  have h := unit_len_bounds cfg.hdr cfg.rcd
  cases p <;> simp only [parserNeed, cmdLen] <;> omega

/-- A lost magic costs one byte and scanning resumes (R291). -/
theorem loseMagic_parser (b : Byte) (s : State) :
    (loseMagic b s).parser = { s.parser with pstate := .scanMagic, buf := s.parser.buf.drop 1 } := by
  simp [loseMagic]

/-- A rejected count costs one byte and scanning resumes (R292). -/
theorem rejectCount_parser (c : Word32) (s : State) :
    (rejectCount c s).parser = { s.parser with pstate := .scanMagic, buf := s.parser.buf.drop 1 } := by
  simp [rejectCount]

/-- An accepted command header is consumed (R205). -/
theorem acceptCommand_buf (f : Word32) (s : State) :
    (acceptCommand f s).parser.buf = s.parser.buf.drop s.cfg.hdr.len := by
  simp [acceptCommand]

/-- An accepted event header is consumed (R205). -/
theorem acceptEvents_buf (c f : Word32) (s : State) :
    (acceptEvents c f s).parser.buf = s.parser.buf.drop s.cfg.hdr.len := by
  unfold acceptEvents; split <;> simp

/-- An accepted record is consumed (R206). -/
theorem acceptRecord_buf (e : Event) (s : State) :
    (acceptRecord e s).parser.buf = s.parser.buf.drop s.cfg.rcd.len := by
  unfold acceptRecord; simp only []; split <;> simp

/-- A command record is consumed (R207). -/
theorem acceptCommandRecord_buf (op p0 : Byte) (s : State) :
    (acceptCommandRecord op p0 s).parser.buf = s.parser.buf.drop 4 := by
  simp [acceptCommandRecord]

/-- Frame accounting leaves the queue's peak alone (R256). -/
theorem frameDone_queuePeak (s : State) : (frameDone s).tel.queuePeak = s.tel.queuePeak := by
  simp [frameDone, accountFrame, driftUpdate, emit]

end Sys2Proof.Laws
end

