-- ==== Sys2Proof/Laws/PerInstr.lean ====
section
/-!
SUPPORT. The per-instruction family `EncodeLength`: an encoded unit has exactly its format's length in bytes, and a port
operation has no bytes (spec/30_encoding.md R85, R97, R105).
-/

namespace Sys2Proof.Laws.EncodeLength

/-- The encoding of `i` is as long as its format says; nothing for a port operation. -/
def Statement (i : Instr) : Prop := i.encode.length = i.format.elim 0 Format.len

theorem scanMatch : Statement (.scanMatch) := rfl
theorem scanMiss : ∀ x0 x1 x2 x3, Statement (.scanMiss x0 x1 x2 x3) := fun _ _ _ _ => rfl
theorem hdr12Events : ∀ x0 x1, Statement (.hdr12Events x0 x1) := fun _ _ => rfl
theorem hdr12EventsMax : ∀ x0, Statement (.hdr12EventsMax x0) := fun _ => rfl
theorem hdr12Command : ∀ x0, Statement (.hdr12Command x0) := fun _ => rfl
theorem hdr12Oversized : ∀ x0 x1, Statement (.hdr12Oversized x0 x1) := fun _ _ => rfl
theorem hdr10Events : ∀ x0 x1, Statement (.hdr10Events x0 x1) := fun _ _ => rfl
theorem hdr10EventsMax : ∀ x0, Statement (.hdr10EventsMax x0) := fun _ => rfl
theorem hdr10Command : ∀ x0, Statement (.hdr10Command x0) := fun _ => rfl
theorem hdr10Oversized : ∀ x0 x1, Statement (.hdr10Oversized x0 x1) := fun _ _ => rfl
theorem ev6 : ∀ x0 x1 x2 x3, Statement (.ev6 x0 x1 x2 x3) := fun _ _ _ _ => rfl
theorem ev8 : ∀ x0 x1 x2 x3 x4 x5 x6, Statement (.ev8 x0 x1 x2 x3 x4 x5 x6) := fun _ _ _ _ _ _ _ => rfl
theorem cmdCycleMode : ∀ x0 x1 x2, Statement (.cmdCycleMode x0 x1 x2) := fun _ _ _ => rfl
theorem cmdSetVoiceMask : ∀ x0 x1 x2, Statement (.cmdSetVoiceMask x0 x1 x2) := fun _ _ _ => rfl
theorem cmdSetFilter : ∀ x0 x1 x2, Statement (.cmdSetFilter x0 x1 x2) := fun _ _ _ => rfl
theorem cmdUnknown : ∀ x0 x1 x2 x3, Statement (.cmdUnknown x0 x1 x2 x3) := fun _ _ _ _ => rfl
theorem readyLine : Statement (.readyLine) := rfl
theorem attach : Statement (.attach) := rfl
theorem txReadyByte : Statement (.txReadyByte) := rfl
theorem detach : Statement (.detach) := rfl
theorem pull : Statement (.pull) := rfl
theorem bufferFull : Statement (.bufferFull) := rfl
theorem recentCapture : ∀ x0, Statement (.recentCapture x0) := fun _ => rfl
theorem scanMagic : Statement (.scanMagic) := rfl
theorem readHeader : Statement (.readHeader) := rfl
theorem readEvents : Statement (.readEvents) := rfl
theorem readCommand : Statement (.readCommand) := rfl
theorem frameStart : ∀ x0 x1, Statement (.frameStart x0 x1) := fun _ _ => rfl
theorem parserReset : Statement (.parserReset) := rfl
theorem controlDispatch : ∀ x0 x1 x2 x3, Statement (.controlDispatch x0 x1 x2 x3) := fun _ _ _ _ => rfl
theorem frameDone : Statement (.frameDone) := rfl
theorem driftUpdate : ∀ x0, Statement (.driftUpdate x0) := fun _ => rfl
theorem push : ∀ x0 x1 x2 x3, Statement (.push x0 x1 x2 x3) := fun _ _ _ _ => rfl
theorem dropOldest : Statement (.dropOldest) := rfl
theorem pop : Statement (.pop) := rfl
theorem peek : Statement (.peek) := rfl
theorem depth : Statement (.depth) := rfl
theorem queueReset : Statement (.queueReset) := rfl
theorem consumeCycles : ∀ x0, Statement (.consumeCycles x0) := fun _ => rfl
theorem flowUpdate : Statement (.flowUpdate) := rfl
theorem renderSample : Statement (.renderSample) := rfl
theorem queueEvent : ∀ x0 x1 x2 x3, Statement (.queueEvent x0 x1 x2 x3) := fun _ _ _ _ => rfl
theorem applyEvent : ∀ x0, Statement (.applyEvent x0) := fun _ => rfl
theorem cellWrite : ∀ x0 x1 x2, Statement (.cellWrite x0 x1 x2) := fun _ _ _ => rfl
theorem drainZero : Statement (.drainZero) := rfl
theorem gain : ∀ x0, Statement (.gain x0) := fun _ => rfl
theorem cellInit : ∀ x0, Statement (.cellInit x0) := fun _ => rfl
theorem cellConstruct : ∀ x0, Statement (.cellConstruct x0) := fun _ => rfl
theorem engineReset : Statement (.engineReset) := rfl
theorem resetQueueState : Statement (.resetQueueState) := rfl
theorem getQueueDepth : Statement (.getQueueDepth) := rfl
theorem getDroppedEventCount : Statement (.getDroppedEventCount) := rfl
theorem getMonitor : Statement (.getMonitor) := rfl
theorem pumpAcquire : Statement (.pumpAcquire) := rfl
theorem pumpRender : Statement (.pumpRender) := rfl
theorem pumpCommit : Statement (.pumpCommit) := rfl
theorem takeFree : Statement (.takeFree) := rfl
theorem giveFull : ∀ x0, Statement (.giveFull x0) := fun _ => rfl
theorem sinkFree : Statement (.sinkFree) := rfl
theorem sidWrite : ∀ x0 x1 x2, Statement (.sidWrite x0 x1 x2) := fun _ _ _ => rfl
theorem sidClock : ∀ x0 x1, Statement (.sidClock x0 x1) := fun _ _ => rfl
theorem sidOutput : ∀ x0, Statement (.sidOutput x0) := fun _ => rfl
theorem sidSetChipModel : ∀ x0 x1, Statement (.sidSetChipModel x0 x1) := fun _ _ => rfl
theorem sidReset : ∀ x0, Statement (.sidReset x0) := fun _ => rfl
theorem sidEnableFilter : ∀ x0 x1, Statement (.sidEnableFilter x0 x1) := fun _ _ => rfl
theorem sidEnableExternalFilter : ∀ x0 x1, Statement (.sidEnableExternalFilter x0 x1) := fun _ _ => rfl
theorem sidSetSamplingParameters : ∀ x0 x1 x2 x3, Statement (.sidSetSamplingParameters x0 x1 x2 x3) := fun _ _ _ _ => rfl
theorem sidReadState : ∀ x0, Statement (.sidReadState x0) := fun _ => rfl

end Sys2Proof.Laws.EncodeLength
end

