-- ==== Sys2Proof/Laws/Pool.lean ====
section
/-!
SUPPORT. The audio pool (spec/42_sample_pump.md R165): which buffer `take_free` chooses.
-/

namespace Sys2Proof.Laws

open Sys2Proof.Machine

/-- No buffer is chosen exactly when none is FREE. -/
theorem firstFree_none (bs : List Buffer) : firstFree bs = none ↔ ∀ x ∈ bs, x.cond ≠ .free := by
  induction bs with
  | nil => simp [firstFree]
  | cons x bs ih =>
    unfold firstFree
    split
    · rename_i h; simp [h]
    · rename_i h; simp [h, ih]

/-- The chosen buffer is FREE. -/
theorem firstFree_free (bs : List Buffer) (b : Nat) (h : firstFree bs = some b) :
    ∃ x, bs[b]? = some x ∧ x.cond = .free := by
  induction bs generalizing b with
  | nil => simp [firstFree] at h
  | cons x bs ih =>
    unfold firstFree at h
    split at h
    · rename_i hx; cases h; exact ⟨x, rfl, hx⟩
    · cases hb : firstFree bs with
      | none => rw [hb] at h; cases h
      | some k => rw [hb] at h; cases h; exact ih k hb

/-- A FREE buffer below which none is FREE is the one chosen. -/
theorem firstFree_some (bs : List Buffer) (b : Nat) (x : Buffer) (hb : bs[b]? = some x) (hx : x.cond = .free)
    (hl : ∀ (k : Nat) (y : Buffer), k < b → bs[k]? = some y → y.cond ≠ .free) : firstFree bs = some b := by
  induction bs generalizing b with
  | nil => simp at hb
  | cons y bs ih =>
    unfold firstFree
    cases b with
    | zero => simp at hb; subst hb; simp [hx]
    | succ b =>
      rw [if_neg (hl 0 y (by omega) (by simp)),
        ih b (by simpa using hb) (fun k z hk hz => hl (k + 1) z (by omega) (by simpa using hz))]
      rfl

/-- Changing the buffer that is there is setting it. -/
theorem modify_buffer (l : List Buffer) (b : Nat) (x : Buffer) (f : Buffer → Buffer) (h : l[b]? = some x) :
    l.modify b f = l.set b (f x) := by
  rw [List.modify_eq_set_getElem?, h]; rfl

end Sys2Proof.Laws
end

