-- ==== Sys2Proof/Laws/PowerOn.lean ====
section
/-!
SUPPORT. What the written-out power-on state holds (spec/70_reset_and_hazards.md R331): the pre-filled frames, the cell traces,
and the canonical form of every memory.
-/

namespace Sys2Proof.Laws

open Sys2Proof.Machine

/-- One budget for each idle sample. -/
theorem idleCycles_length (cfg : Config) (n acc : Nat) : (idleCycles cfg n acc).length = n := by
  induction n generalizing acc with
  | zero => rfl
  | succ n ih => simp [idleCycles, ih]

/-- The idle frames are written at consecutive addresses. -/
theorem idleFrames_addresses (cfg : Config) (cs : List Nat) (j : Nat) (ta tb : List CellCall) :
    (idleFrames cfg cs j ta tb).map Prod.fst = List.range' j cs.length := by
  induction cs generalizing j ta tb with
  | nil => simp [idleFrames]
  | cons c cs ih => simp [idleFrames, ih, List.range'_succ]

/-- A frame is written exactly at those addresses. -/
theorem idleFrames_written (cfg : Config) (cs : List Nat) (j : Nat) (ta tb : List CellCall) (k : Nat) :
    (memRead (idleFrames cfg cs j ta tb) k).isSome = true ↔ j ≤ k ∧ k < j + cs.length := by
  induction cs generalizing j ta tb with
  | nil => simp [idleFrames]
  | cons c cs ih =>
    simp only [idleFrames, memRead, List.length_cons]
    split
    · rename_i h; subst h; simp
    · rename_i h; rw [ih]; omega

/-- Every memory of the power-on state is in canonical form, for every configuration. -/
theorem afterPowerOn_memory_wf (cfg : Config) :
    Memory.wf (State.afterPowerOn cfg).queue.ring ∧ Memory.wf (State.afterPowerOn cfg).recent.bytes ∧
    Memory.wf (State.afterPowerOn cfg).pool.audio := by
  refine ⟨List.Pairwise.nil, List.Pairwise.nil, ?_⟩
  simp only [State.afterPowerOn, Memory.wf, idleFrames_addresses]
  exact List.pairwise_lt_range'

/-- Every memory of `State.reset` is in canonical form. -/
theorem reset_memory_wf :
    Memory.wf State.reset.queue.ring ∧ Memory.wf State.reset.recent.bytes ∧ Memory.wf State.reset.pool.audio :=
  afterPowerOn_memory_wf Config.standard

end Sys2Proof.Laws
end

