-- ==== Sys2Proof/Laws/Render.lean ====
section
/-!
SUPPORT. A sample neither reads nor writes the pump, the pool and the port's answer (spec/10_state.md R81; 41_scheduler.md
R135): rendering commutes with changing them.
-/

namespace Sys2Proof.Laws

open Sys2Proof.Machine

/-- The state with another pump, pool and answer. -/
def withPump (p : Pump) (q : Pool) (v : PortValue) (s : State) : State := { s with pump := p, pool := q, ret := v }

theorem applyEvent_withPump (e : Event) (p : Pump) (q : Pool) (v : PortValue) (s : State) :
    applyEvent e (withPump p q v s) = withPump p q v (applyEvent e s) := by
  rw [applyEvent_eq, applyEvent_eq]
  rfl

theorem drainLoop_withPump (n : Nat) (p : Pump) (q : Pool) (v : PortValue) (s : State) :
    drainLoop n (withPump p q v s) = withPump p q v (drainLoop n s) := by
  induction n generalizing s with
  | zero => rfl
  | succ n ih =>
    have hd : headDelta (withPump p q v s) = headDelta s := rfl
    have hc : (withPump p q v s).queue.count = s.queue.count := rfl
    have he : headEvent (withPump p q v s) = headEvent s := rfl
    have hp : popHead (withPump p q v s) = withPump p q v (popHead s) := rfl
    rw [drainLoop, drainLoop, hd, hc]
    split
    · rw [he, hp, applyEvent_withPump, ih]
    · rfl

theorem drainZero_withPump (p : Pump) (q : Pool) (v : PortValue) (s : State) :
    drainZero (withPump p q v s) = withPump p q v (drainZero s) := drainLoop_withPump s.queue.count p q v s

theorem segments_withPump (n cycles : Nat) (p : Pump) (q : Pool) (v : PortValue) (s : State) :
    segments n cycles (withPump p q v s) = withPump p q v (segments n cycles s) := by
  induction n generalizing cycles s with
  | zero => rfl
  | succ n ih =>
    have hr : segmentRun cycles (withPump p q v s) = segmentRun cycles s := rfl
    have h1 : clockBoth (segmentRun cycles s) (withPump p q v s) = withPump p q v (clockBoth (segmentRun cycles s) s) := rfl
    rw [segments, segments]
    split
    · rfl
    · dsimp only
      rw [hr, h1]
      generalize clockBoth (segmentRun cycles s) s = u
      generalize segmentRun cycles s = run
      have hc : (withPump p q v u).queue.count = u.queue.count := rfl
      have h2 : consumeCycles run (withPump p q v u) = withPump p q v (consumeCycles run u) := rfl
      rw [hc, h2]
      generalize consumeCycles run u = w
      have hd : headDelta (withPump p q v w) = headDelta w := rfl
      have he : headEvent (withPump p q v w) = headEvent w := rfl
      have hp : popHead (withPump p q v w) = withPump p q v (popHead w) := rfl
      rw [hd, he, hp, applyEvent_withPump, drainZero_withPump, ih, ih, ih]
      split
      · split <;> rfl
      · rfl

theorem advanceSample_withPump (p : Pump) (q : Pool) (v : PortValue) (s : State) :
    advanceSample (withPump p q v s) = withPump p q v (advanceSample s) := by
  have h1 : takeBudget (withPump p q v s) = withPump p q v (takeBudget s) := by
    rw [takeBudget_eq, takeBudget_eq]
    rfl
  unfold advanceSample
  dsimp only
  rw [h1, drainZero_withPump, segments_withPump]
  rfl

/-- Rendering commutes with changing pump, pool and answer. -/
theorem renderSample_withPump (p : Pump) (q : Pool) (v : PortValue) (s : State) :
    renderSample (withPump p q v s) = withPump p q v (renderSample s) := by
  unfold renderSample
  rw [advanceSample_withPump]
  rfl

/-- The frame rendered does not depend on pump, pool and answer. -/
theorem sampleFrame_withPump (p : Pump) (q : Pool) (v : PortValue) (s : State) :
    sampleFrame (withPump p q v s) = sampleFrame s := by
  unfold sampleFrame
  rw [advanceSample_withPump]
  rfl

end Sys2Proof.Laws
end

