-- ==== Sys2Proof/Laws/Timeline.lean ====
section
/-!
SUPPORT. The timeline of the scheduler: which events the drain and the segment loop play, between which `clock` calls their
writes land, and what the queue holds afterwards (spec/41_scheduler.md R138, R139, R144, R153).
-/

namespace Sys2Proof.Laws

open Sys2Proof.Machine

@[simp] theorem waitCalls_zero : waitCalls 0 = [] := rfl

theorem waitCalls_pos {n : Nat} (h : n ≠ 0) : waitCalls n = [.clock n] := if_neg h

theorem playCalls_append (cfg : Config) (e : Engine) (c : CellId) (xs ys : List Event) :
    playCalls cfg e c (xs ++ ys) = playCalls cfg e c xs ++ playCalls cfg e c ys := by
  induction xs with
  | nil => rfl
  | cons x xs ih => simp [playCalls, ih]

@[simp] theorem lowerFirst_zero (es : List Event) : lowerFirst 0 es = es := by
  cases es <;> simp [lowerFirst]

@[simp] theorem totalDelta_append_list (xs ys : List Event) : totalDelta (xs ++ ys) = totalDelta xs + totalDelta ys := by
  induction xs with
  | nil => simp [totalDelta]
  | cons x xs ih => simp [totalDelta, ih]; omega

/-- Nothing played. -/
theorem played_refl {s t : State} (hq : t.queue = s.queue) (hc : t.cfg = s.cfg) (hp : t.paused = s.paused)
    (hh : s.queue.head < s.cfg.queueCap) : Played s t [] (heldEvents s) 0 [] [] where
  held := rfl
  remains := by simp [heldEvents_congr hq hc]
  callsA := rfl
  callsB := rfl
  head := by simp [hq, Nat.mod_eq_of_lt hh]
  count := by simp [hq]
  tail := by rw [hq]
  dropped := by rw [hq]
  ring := fun _ _ => by rw [hq]
  kept := fun _ => hp
  opened := fun _ h _ => by rw [hp, h]
  closed := fun _ _ h => absurd rfl h

/-- Playing in two parts. -/
theorem played_trans {s u t : State} {due1 due2 rest1 rest2 : List Event} {left : Nat} {ka1 kb1 ka2 kb2 : List CellCall}
    (h1 : Played s u due1 rest1 0 ka1 kb1) (h2 : Played u t due2 rest2 left ka2 kb2) (hc : u.cfg = s.cfg)
    (he : u.engine = s.engine) : Played s t (due1 ++ due2) rest2 left (ka1 ++ ka2) (kb1 ++ kb2) where
  held := by rw [h1.held, List.append_assoc, ← h2.held, h1.remains, lowerFirst_zero]
  remains := h2.remains
  callsA := by rw [h1.callsA, h2.callsA, hc, he, playCalls_append]; simp
  callsB := by rw [h1.callsB, h2.callsB, hc, he, playCalls_append]; simp
  head := by rw [h2.head, h1.head, hc, Nat.mod_add_mod, List.length_append, Nat.add_assoc]
  count := by have := h1.count; have := h2.count; rw [List.length_append]; omega
  tail := by rw [h2.tail, h1.tail]
  dropped := by rw [h2.dropped, h1.dropped]
  ring := by
    intro k hk
    rw [List.length_append] at hk
    rw [h2.ring k, h1.ring k]
    · exact fun j hj hl => hk j hj (by omega)
    · intro j hj hl
      have := h1.count
      rw [h1.head, hc, Nat.mod_add_mod, Nat.add_assoc]
      exact hk (due1.length + j) (by omega) (by omega)
  kept := by
    intro h
    obtain ⟨a, b⟩ := List.append_eq_nil_iff.1 h
    rw [h2.kept b, h1.kept a]
  opened := by
    intro hw hp hn
    have := h1.count
    exact h2.opened (by rw [hc]; exact hw) (h1.opened hw hp hn) (by rw [hc]; omega)
  closed := by
    intro hw hp hne
    have hn := h2.count
    by_cases h1e : due1 = []
    · subst h1e
      have := h2.closed (by rw [hc]; exact hw) (by rw [h1.kept rfl, hp]) (by simpa using hne)
      rwa [hc] at this
    have hu := h1.closed hw hp h1e
    by_cases h2e : due2 = []
    · subst h2e
      rw [h2.kept rfl, hu]
      simp at hn
      rw [hn]
    cases hup : u.paused with
    | true =>
      have := h2.closed (by rw [hc]; exact hw) hup h2e
      rwa [hc] at this
    | false =>
      have hle := hu.1 hup
      have := h2.opened (by rw [hc]; exact hw) hup (by rw [hc]; omega)
      exact ⟨fun _ => by omega, fun _ => this⟩

/-- The delta does not matter to an event's writes (R142). -/
theorem eventWrites_delta (cfg : Config) (e : Engine) (c : CellId) (x : Event) (d : Word32) :
    eventWrites cfg e c [{ x with delta := d }] = eventWrites cfg e c [x] := by
  rw [eventWrites_one, eventWrites_one]

/-- Lowering the head to zero, popping it and applying it plays it, once its delta has been waited (R139, R144). -/
theorem played_event (s u : State) (run : Nat) (q : QueueOk s) (h0 : 0 < s.queue.count) (hr : run = headDelta s)
    (hq : u.queue = { s.queue with ring := u.queue.ring }) (hc : u.cfg = s.cfg) (hp : u.paused = s.paused)
    (hring : ∀ k, k ≠ s.queue.head → memRead u.queue.ring k = memRead s.queue.ring k) :
    Played s (applyEvent (headEvent u) (popHead u)) [headEvent s] (heldEvents s).tail 0
      (waitCalls run ++ eventWrites s.cfg s.engine .a [headEvent s])
      (waitCalls run ++ eventWrites s.cfg s.engine .b [headEvent s]) := by
  obtain ⟨es, hes⟩ := heldEvents_cons s h0 q.head_lt
  have hcnt : u.queue.count = s.queue.count := by rw [hq]
  have hhd : u.queue.head = s.queue.head := by rw [hq]
  have htq : (applyEvent (headEvent u) (popHead u)).queue = (popHead u).queue := by simp
  have htc : (applyEvent (headEvent u) (popHead u)).cfg = s.cfg := by simp [hc]
  have hcle := q.count_le
  have hadv : heldEvents s = headEvent s :: heldEvents (applyEvent (headEvent u) (popHead u)) := by
    apply heldEvents_ext
    · simp [hcnt]; omega
    · intro j hj
      cases j with
      | zero => simp [headEvent, Nat.mod_eq_of_lt q.head_lt]
      | succ j =>
        rw [List.getElem?_cons_succ, heldEvents_get _ j (by simp [hcnt]; omega), htc]
        simp only [htq, popHead_queue, ringNext, hc, hhd, slot_succ]
        refine congrArg _ (ringAt_congr ?_)
        rw [htq]
        simp only [popHead_queue]
        refine hring _ fun hx => ?_
        have hx' : (s.queue.head + (j + 1)) % s.cfg.queueCap = (s.queue.head + 0) % s.cfg.queueCap := by
          rw [hx, Nat.add_zero, Nat.mod_eq_of_lt q.head_lt]
        have := slot_inj (by omega) (by omega) hx'
        omega
  have hpa : (applyEvent (headEvent u) (popHead u)).paused = pausedAt s.cfg s.paused (s.queue.count - 1) := by
    simp [hc, hp, hcnt]
  have htn : (applyEvent (headEvent u) (popHead u)).queue.count = s.queue.count - 1 := by rw [htq]; simp [hcnt]
  refine ⟨?_, ?_, ?_, ?_, ?_, ?_, ?_, ?_, ?_, ?_, ?_, ?_⟩
  · simp [hes]
  · rw [hadv]; simp
  · simp [playCalls, hr, headDelta]
  · simp [playCalls, hr, headDelta]
  · rw [htq]; simp [ringNext, hc, hhd]
  · rw [htn]; simp; omega
  · rw [htq, popHead_queue, hq]
  · rw [htq, popHead_queue, hq]
  · intro k hk
    rw [htq]
    simp only [popHead_queue]
    refine hring k fun hx => hk 0 h0 (by simp) ?_
    rw [hx, Nat.add_zero, Nat.mod_eq_of_lt q.head_lt]
  · intro h; cases h
  · intro hw hf hn
    rw [hpa, hf]
    simp [pausedAt]; omega
  · intro hw hf _
    rw [hpa, hf, htn]
    simp [pausedAt]

/-- A drain plays the due events and waits for nothing (R144). -/
theorem drainLoop_played (n : Nat) (s : State) (q : QueueOk s) :
    ∃ due rest ka kb, Played s (drainLoop n s) due rest 0 ka kb ∧ totalDelta due = 0 ∧
      (drainLoop n s).cellA = { s.cellA with trace := s.cellA.trace ++ ka } ∧
      (drainLoop n s).cellB = { s.cellB with trace := s.cellB.trace ++ kb } := by
  induction n generalizing s with
  | zero => exact ⟨[], _, [], [], played_refl rfl rfl rfl q.head_lt, rfl, by simp [drainLoop], by simp [drainLoop]⟩
  | succ n ih =>
    by_cases h : s.queue.count > 0 ∧ headDelta s = 0
    · have e : drainLoop (n + 1) s = drainLoop n (applyEvent (headEvent s) (popHead s)) := by
        rw [drainLoop]; exact if_pos h
      have q1 : QueueOk (applyEvent (headEvent s) (popHead s)) :=
        queueOk_congr (queueOk_popHead s q h.1) (by simp) (by simp) (by simp)
      have hz : (headEvent s).delta = 0 := BitVec.eq_of_toNat_eq h.2
      have p1 := played_event s s 0 q h.1 h.2.symm rfl rfl rfl (fun _ _ => rfl)
      obtain ⟨due, rest, ka, kb, p2, d, a, b⟩ := ih _ q1
      rw [e]
      refine ⟨_, rest, _, _, played_trans p1 p2 (by simp) (by simp), ?_, ?_, ?_⟩
      · simp [totalDelta, d, hz]
      · rw [a, applyEvent_eq]; simp
      · rw [b, applyEvent_eq]; simp
    · have e : drainLoop (n + 1) s = s := by rw [drainLoop]; exact if_neg h
      rw [e]
      exact ⟨[], _, [], [], played_refl rfl rfl rfl q.head_lt, rfl, by simp, by simp⟩

/-- The segment loop plays every event that falls due within its cycles and waits the rest of them (R139, R153). -/
theorem segments_played (n cycles : Nat) (s : State) (hd : NotDue s) (hn : s.queue.count + 1 ≤ n) (q : QueueOk s) :
    ∃ due rest left ka kb, Played s (segments n cycles s) due rest left ka kb ∧ totalDelta due + left = cycles ∧
      (segments n cycles s).cellA = { s.cellA with trace := s.cellA.trace ++ ka } ∧
      (segments n cycles s).cellB = { s.cellB with trace := s.cellB.trace ++ kb } := by
  induction n generalizing cycles s with
  | zero => omega
  | succ n ih =>
    by_cases h0 : cycles = 0
    · subst h0
      rw [segments_zero]
      exact ⟨[], _, 0, [], [], played_refl rfl rfl rfl q.head_lt, rfl, by simp, by simp⟩
    rw [segments, if_neg h0]
    dsimp only
    have hq1 : (clockBoth (segmentRun cycles s) s).queue = s.queue := by simp
    by_cases hc : s.queue.count > 0
    · have hdel : 0 < headDelta s := by
        rcases hd with hd | hd
        · omega
        · exact hd
      have hrun : segmentRun cycles s = min cycles (headDelta s) := if_pos hc
      have hev : headEvent (clockBoth (segmentRun cycles s) s) = headEvent s := by
        unfold headEvent ringAt; rw [hq1]
      have hh1 : headDelta (clockBoth (segmentRun cycles s) s) = headDelta s := by unfold headDelta; rw [hev]
      have hh2 : headDelta (consumeCycles (segmentRun cycles s) (clockBoth (segmentRun cycles s) s)) =
          headDelta s - segmentRun cycles s := by
        rw [headDelta_consumeCycles _ _ (by rw [hh1]; omega), hh1]
      rw [if_pos (by rw [hq1]; exact hc)]
      generalize hu : consumeCycles (segmentRun cycles s) (clockBoth (segmentRun cycles s) s) = u at hh2 ⊢
      have hua : u.cellA = { s.cellA with trace := s.cellA.trace ++ [.clock (segmentRun cycles s)] } := by
        rw [← hu]; simp [clockBoth]
      have hub : u.cellB = { s.cellB with trace := s.cellB.trace ++ [.clock (segmentRun cycles s)] } := by
        rw [← hu]; simp [clockBoth]
      have huring : u.queue.ring = memWrite s.queue.ring s.queue.head
          { headEvent s with delta := BitVec.ofNat 32 (headDelta s - segmentRun cycles s) } := by
        rw [← hu]; unfold consumeCycles; rw [hh1]; simp [headEvent, ringAt]
      have huq : u.queue = { s.queue with ring := u.queue.ring } := by rw [← hu]; simp [consumeCycles]
      have huc : u.cfg = s.cfg := by rw [← hu]; simp [consumeCycles]
      have hue : u.engine = s.engine := by rw [← hu]; simp [consumeCycles]
      have hup : u.paused = s.paused := by rw [← hu]; simp [consumeCycles]
      have hother : ∀ k, k ≠ s.queue.head → memRead u.queue.ring k = memRead s.queue.ring k := by
        intro k hk; rw [huring, memRead_memWrite_other _ _ hk]
      have huhead : headEvent u = { headEvent s with delta := BitVec.ofNat 32 (headDelta s - segmentRun cycles s) } := by
        have : u.queue.head = s.queue.head := by rw [huq]
        unfold headEvent ringAt; rw [this, huring]; simp [headEvent, ringAt]
      by_cases hz : headDelta s - segmentRun cycles s = 0
      · rw [if_pos (by rw [hh2]; exact hz)]
        have hre : segmentRun cycles s = headDelta s := by omega
        rw [hz] at huhead
        have p1 := played_event s u (segmentRun cycles s) q hc hre huq huc hup hother
        have q1 : QueueOk (applyEvent (headEvent u) (popHead u)) := by
          have qu : QueueOk u := by
            rw [← hu]; exact queueOk_setRingDelta _ _ _ (queueOk_congr q (by simp) (by simp) (by simp))
          exact queueOk_congr (queueOk_popHead u qu (by rw [huq]; exact hc)) (by simp) (by simp) (by simp)
        obtain ⟨due2, rest2, ka2, kb2, p2, d2, a2, b2⟩ := drainLoop_played
          (applyEvent (headEvent u) (popHead u)).queue.count (applyEvent (headEvent u) (popHead u)) q1
        have p12 := played_trans p1 p2 (by simp [huc]) (by simp [hue])
        have hcnt := drainZero_count_le (applyEvent (headEvent u) (popHead u))
        have hucn : u.queue.count = s.queue.count := by rw [huq]
        simp only [applyEvent_frame, popHead_queue, hucn] at hcnt
        obtain ⟨due3, rest3, left, ka3, kb3, p3, d3, a3, b3⟩ := ih (cycles - segmentRun cycles s)
          (drainZero (applyEvent (headEvent u) (popHead u))) (notDue_drainZero _) (by omega) (queueOk_drainZero _ q1)
        have hzc : (drainZero (applyEvent (headEvent u) (popHead u))).cfg = s.cfg := by simp [huc]
        have hze : (drainZero (applyEvent (headEvent u) (popHead u))).engine = s.engine := by simp [hue]
        have hw : waitCalls (segmentRun cycles s) = [.clock (segmentRun cycles s)] := waitCalls_pos (by omega)
        refine ⟨_, rest3, left, _, _, played_trans p12 p3 hzc hze, ?_, ?_, ?_⟩
        · simp [totalDelta, d2]
          have : (headEvent s).delta.toNat = headDelta s := rfl
          omega
        · rw [a3]; unfold drainZero; rw [a2, applyEvent_eq, hw]
          simp [hua, huc, hue, huhead, eventWrites_delta]
        · rw [b3]; unfold drainZero; rw [b2, applyEvent_eq, hw]
          simp [hub, huc, hue, huhead, eventWrites_delta]
      · rw [if_neg (by rw [hh2]; exact hz), show cycles - segmentRun cycles s = 0 by omega, segments_zero]
        have hrc : segmentRun cycles s = cycles := by omega
        obtain ⟨es, he1, he2⟩ := heldEvents_setHead s (BitVec.ofNat 32 (headDelta s - segmentRun cycles s)) hc q.head_lt
          q.count_le
        have hheld : heldEvents u = lowerFirst cycles (heldEvents s) := by
          rw [he1, lowerFirst, ← hrc]
          rw [show (headEvent s).delta.toNat = headDelta s from rfl, ← he2]
          unfold heldEvents ringAt
          rw [huq, huc]; simp [huring, headEvent, ringAt]
        refine ⟨[], heldEvents s, cycles, _, _, ?_, by simp [totalDelta], hua, hub⟩
        have hw : [CellCall.clock (segmentRun cycles s)] = waitCalls cycles := by rw [hrc, waitCalls_pos h0]
        refine ⟨rfl, hheld, by rw [hw]; simp [playCalls], by rw [hw]; simp [playCalls], ?_, ?_, ?_, ?_, ?_, ?_, ?_, ?_⟩
        · rw [huq]; simp [Nat.mod_eq_of_lt q.head_lt]
        · rw [huq]; simp
        · rw [huq]
        · rw [huq]
        · intro k hk
          refine hother k fun hx => hk 0 hc (by simp) ?_
          rw [hx, Nat.add_zero, Nat.mod_eq_of_lt q.head_lt]
        · exact fun _ => hup
        · intro _ h _; rw [hup, h]
        · intro _ _ h; exact absurd rfl h
    · have hrun : segmentRun cycles s = cycles := if_neg hc
      rw [if_neg (by rw [hq1]; exact hc), hrun, Nat.sub_self, segments_zero]
      have hnil : heldEvents s = [] := by
        apply List.length_eq_zero_iff.1; rw [heldEvents_length]; omega
      refine ⟨[], [], cycles, [.clock cycles], [.clock cycles], ?_, by simp [totalDelta], by simp [clockBoth],
        by simp [clockBoth]⟩
      have hw : [CellCall.clock cycles] = waitCalls cycles := by rw [waitCalls_pos h0]
      refine ⟨by simp [hnil], ?_, by rw [hw]; simp [playCalls], by rw [hw]; simp [playCalls], ?_, ?_, ?_, ?_, ?_, ?_, ?_, ?_⟩
      · rw [heldEvents_congr (s := s) (by simp) (by simp), hnil]; rfl
      · simp [Nat.mod_eq_of_lt q.head_lt]
      · simp
      · simp
      · simp
      · intro k _; simp
      · intro _; simp
      · intro _ h _; simpa using h
      · intro _ _ h; exact absurd rfl h

/-- What an event's playing calls depends on of the engine: the policy alone (R143). -/
theorem playCalls_congr {cfg : Config} {e e' : Engine} (c : CellId) (es : List Event) (hv : e'.voiceMask = e.voiceMask)
    (hf : e'.filterEn = e.filterEn) : playCalls cfg e' c es = playCalls cfg e c es := by
  induction es with
  | nil => rfl
  | cons x xs ih => simp [playCalls, ih, eventWrites_one, hv, hf]

/-- The start of a stretch of play may be exchanged for one with the same queue, straps, flow flag and policy. -/
theorem played_congr {s s' t : State} {due rest : List Event} {left : Nat} {ka kb : List CellCall}
    (h : Played s' t due rest left ka kb) (hq : s'.queue = s.queue) (hc : s'.cfg = s.cfg) (hp : s'.paused = s.paused)
    (hv : s'.engine.voiceMask = s.engine.voiceMask) (hf : s'.engine.filterEn = s.engine.filterEn) :
    Played s t due rest left ka kb where
  held := by rw [← heldEvents_congr hq hc]; exact h.held
  remains := h.remains
  callsA := by rw [h.callsA, hc, playCalls_congr .a due hv hf]
  callsB := by rw [h.callsB, hc, playCalls_congr .b due hv hf]
  head := by rw [h.head, hq, hc]
  count := by rw [h.count, hq]
  tail := by rw [h.tail, hq]
  dropped := by rw [h.dropped, hq]
  ring := by rw [← hq, ← hc]; exact h.ring
  kept := by rw [← hp]; exact h.kept
  opened := by rw [← hq, ← hc, ← hp]; exact h.opened
  closed := by rw [← hc, ← hp]; exact h.closed

/-- ... and its end for one with the same queue, straps and flow flag. -/
theorem played_congr_right {s t t' : State} {due rest : List Event} {left : Nat} {ka kb : List CellCall}
    (h : Played s t due rest left ka kb) (hq : t'.queue = t.queue) (hc : t'.cfg = t.cfg) (hp : t'.paused = t.paused) :
    Played s t' due rest left ka kb where
  held := h.held
  remains := by rw [heldEvents_congr hq hc]; exact h.remains
  callsA := h.callsA
  callsB := h.callsB
  head := by rw [hq]; exact h.head
  count := by rw [hq]; exact h.count
  tail := by rw [hq]; exact h.tail
  dropped := by rw [hq]; exact h.dropped
  ring := by rw [hq]; exact h.ring
  kept := by rw [hp]; exact h.kept
  opened := by rw [hp]; exact h.opened
  closed := by rw [hq, hp]; exact h.closed

/-- Steps 1 to 3 of a sample play the events that fall due within its budget and wait the rest of it (R137 to R139). -/
theorem advanceSample_played (s : State) (q : QueueOk s) :
    ∃ due rest left ka kb, Played s (advanceSample s) due rest left ka kb ∧
      totalDelta due + left = cycleBudget s.cfg s.engine.acc ∧
      (∀ e, rest.head? = some e → left < e.delta.toNat) ∧
      (advanceSample s).cellA = { s.cellA with trace := s.cellA.trace ++ ka } ∧
      (advanceSample s).cellB = { s.cellB with trace := s.cellB.trace ++ kb } := by
  have q0 : QueueOk (takeBudget s) := queueOk_congr q (by simp) (by simp) (by simp)
  obtain ⟨due1, rest1, ka1, kb1, p1, d1, a1, b1⟩ := drainLoop_played (takeBudget s).queue.count (takeBudget s) q0
  obtain ⟨due2, rest, left, ka2, kb2, p2, d2, a2, b2⟩ := segments_played ((drainZero (takeBudget s)).queue.count + 1)
    (cycleBudget s.cfg s.engine.acc) (drainZero (takeBudget s)) (notDue_drainZero _) (le_refl _) (queueOk_drainZero _ q0)
  obtain ⟨-, -, -, -, -, -, -, hnd, -⟩ := advanceSample_spec s
  have p := played_congr (s := s) (played_trans p1 p2 (by simp) (by simp)) (by simp) (by simp) (by simp)
    (by simp [takeBudget_eq]) (by simp [takeBudget_eq])
  have pa : (advanceSample s).cellA = { s.cellA with trace := s.cellA.trace ++ (ka1 ++ ka2) } := by
    change (segments _ _ _).cellA = _
    rw [a2]; unfold drainZero; rw [a1, takeBudget_eq]; simp
  have pb : (advanceSample s).cellB = { s.cellB with trace := s.cellB.trace ++ (kb1 ++ kb2) } := by
    change (segments _ _ _).cellB = _
    rw [b2]; unfold drainZero; rw [b1, takeBudget_eq]; simp
  refine ⟨_, rest, left, _, _, p, by simp [d1, d2], ?_, pa, pb⟩
  intro e he
  obtain ⟨es, rfl⟩ : ∃ es, rest = e :: es := by
    cases rest with
    | nil => simp at he
    | cons x xs => exact ⟨xs, by simp at he; rw [he]⟩
  have hrem : heldEvents (advanceSample s) = lowerFirst left (e :: es) := p.remains
  have hlen : (heldEvents (advanceSample s)).length = es.length + 1 := by rw [hrem]; rfl
  have hhd : (advanceSample s).queue.head < (advanceSample s).cfg.queueCap := by
    have : (advanceSample s).queue.head = _ := p.head
    have hc : (advanceSample s).cfg = s.cfg := by simp
    rw [this, hc]
    exact Nat.mod_lt _ (Nat.lt_of_le_of_lt (Nat.zero_le _) q.head_lt)
  have h0 : 0 < (advanceSample s).queue.count := by rw [← heldEvents_length, hlen]; omega
  obtain ⟨fs, hfs⟩ := heldEvents_cons (advanceSample s) h0 hhd
  rw [hfs, lowerFirst] at hrem
  have hev := (List.cons.inj hrem).1
  rcases hnd with hnd | hnd
  · omega
  · rw [headDelta, hev] at hnd
    by_contra hcon
    rw [show e.delta.toNat - left = 0 by omega] at hnd
    simp at hnd

end Sys2Proof.Laws
end

