-- ==== Sys2Proof/Tests/Slice0.lean ====
section
/-!
SUPPORT. Tests. Every expected value is written out from the spec: its encodings (spec/30_encoding.md), its vectors
(spec/95_test_vectors.md, named V-…) or, where it has none, from the rule named, by hand. After the tests of the instructions
come the witnesses: for every statement with hypotheses, states and operands that meet them.
-/

namespace Sys2Proof.Tests

open Sys2Proof.Machine

/-! ## Small states -/

/-- A small configuration with mock cells (R131). -/
def tinyCfg : Config :=
  { Config.standard with
    queueCap := 4, bufSize := 16, recentSize := 4, frames := 2, nbuf := 2, highWm := 3, lowWm := 1, mockCells := true }

/-- Its registers at their power-on values (R47), nothing rendered. -/
def tiny : State := State.powerOnValues tinyCfg

/-- A streaming session, the parser in state `p` with `bs` buffered and one record left to read. -/
def live (p : ParserState) (bs : List Byte) : State :=
  { tiny with sess := .streaming, parser := { pstate := p, buf := bs, curCount := 1, curFrame := 9, evLeft := 1 } }

/-- The queue holding `es` from slot 0. -/
def holding (es : List Event) : State :=
  { tiny with queue := { ring := es.zipIdx.map fun p => (p.2, p.1), tail := es.length % 4, count := es.length } }

/-- An event with only a delta. -/
def ev (d : Word32) : Event := { chipMask := 0, addr := 0, value := 0, delta := d }

/-- The state an operation leaves. -/
def after (i : Instr) (s : State) : State := resultOf (exec i s) s

/-! ## WellFormed refuses what is no operation -/

theorem test_wf_scanMiss : (Instr.scanMiss 0x53 0x49 0x44 0x46).wellFormed = false := by decide
theorem test_wf_hdr12Oversized : (Instr.hdr12Oversized 8192 0).wellFormed = false := by decide
theorem test_wf_hdr12Oversized_command : (Instr.hdr12Oversized 0xFFFF 0).wellFormed = false := by decide
theorem test_wf_hdr10Oversized : (Instr.hdr10Oversized 8192 0).wellFormed = false := by decide
theorem test_wf_hdr10Oversized_command : (Instr.hdr10Oversized 0xFFFF 0).wellFormed = false := by decide
theorem test_wf_cmdUnknown :
    (Instr.cmdUnknown 1 0 0 0).wellFormed = false ∧ (Instr.cmdUnknown 2 0 0 0).wellFormed = false ∧
    (Instr.cmdUnknown 3 0 0 0).wellFormed = false := by decide
theorem test_wf_frameStart : (Instr.frameStart 8193 0).wellFormed = false := by decide
theorem test_wf_consumeCycles : (Instr.consumeCycles 0).wellFormed = false := by decide
theorem test_wf_sidClock : (Instr.sidClock .a 0).wellFormed = false := by decide

/-! ## Decoding, from words written out -/

-- R204: the four magic bytes; the table's word has byte 0 in its low bits (R104)
theorem test_decode_scanMatch :
    decode .window4 [0x53, 0x49, 0x44, 0x46] = .ok .scanMatch ∧ decodeTableWord 32 0x46444953 = some .scanMatch := by decide
-- V-D7: the number 0x53494446 sent little-endian is no magic
theorem test_decode_scanMiss :
    decode .window4 [0x46, 0x44, 0x49, 0x53] = .ok (.scanMiss 0x46 0x44 0x49 0x53) ∧
    decodeTableWord 32 0 = some (.scanMiss 0 0 0 0) := by decide
-- V-D1, V-D2
theorem test_decode_hdr12Events :
    decode .hdr12 [0x53, 0x49, 0x44, 0x46, 0x01, 0x00, 0x00, 0x00, 0x09, 0x00, 0x00, 0x00] = .ok (.hdr12Events 1 9) ∧
    decodeTableWord 96 0x000000090000000146444953 = some (.hdr12Events 1 9) := by decide
theorem test_decode_hdr12EventsMax :
    decode .hdr12 [0x53, 0x49, 0x44, 0x46, 0x00, 0x20, 0x00, 0x00, 0x09, 0x00, 0x00, 0x00] = .ok (.hdr12EventsMax 9) ∧
    decodeTableWord 96 0x000000090000200046444953 = some (.hdr12EventsMax 9) := by decide
theorem test_decode_hdr12Command :
    decode .hdr12 [0x53, 0x49, 0x44, 0x46, 0xFF, 0xFF, 0x00, 0x00, 0x09, 0x00, 0x00, 0x00] = .ok (.hdr12Command 9) ∧
    decodeTableWord 96 0x000000090000FFFF46444953 = some (.hdr12Command 9) := by decide
theorem test_decode_hdr12Oversized :
    decode .hdr12 [0x53, 0x49, 0x44, 0x46, 0x01, 0x20, 0x00, 0x00, 0x09, 0x00, 0x00, 0x00] =
      .ok (.hdr12Oversized 8193 9) ∧
    decodeTableWord 96 0x000000090001000346444953 = some (.hdr12Oversized 65539 9) := by decide
theorem test_decode_hdr10Events :
    decode .hdr10 [0x53, 0x49, 0x44, 0x46, 0x01, 0x00, 0x09, 0x00, 0x00, 0x00] = .ok (.hdr10Events 1 9) ∧
    decodeTableWord 80 0x00000009000146444953 = some (.hdr10Events 1 9) := by decide
theorem test_decode_hdr10EventsMax :
    decode .hdr10 [0x53, 0x49, 0x44, 0x46, 0x00, 0x20, 0x09, 0x00, 0x00, 0x00] = .ok (.hdr10EventsMax 9) := by decide
theorem test_decode_hdr10Command :
    decode .hdr10 [0x53, 0x49, 0x44, 0x46, 0xFF, 0xFF, 0x09, 0x00, 0x00, 0x00] = .ok (.hdr10Command 9) := by decide
theorem test_decode_hdr10Oversized :
    decode .hdr10 [0x53, 0x49, 0x44, 0x46, 0xFE, 0xFF, 0x09, 0x00, 0x00, 0x00] = .ok (.hdr10Oversized 65534 9) := by decide
-- V-D4
theorem test_decode_ev6 :
    decode .ev6 [0x3F, 0x12, 0x04, 0x03, 0x02, 0x01] = .ok (.ev6 1 0x1F 0x12 16909060) ∧
    decodeTableWord 48 0x01020304123F = some (.ev6 1 0x1F 0x12 16909060) := by decide
theorem test_decode_ev8 :
    decode .ev8 [0xFC, 0xE5, 0x77, 0x99, 0x28, 0x00, 0x00, 0x00] = .ok (.ev8 0x3F 0 7 0x05 0x77 0x99 40) ∧
    decodeTableWord 64 0x000000289977E5FC = some (.ev8 0x3F 0 7 0x05 0x77 0x99 40) := by decide
-- V-D5
theorem test_decode_cmdCycleMode :
    decode .cmd [0x01, 0xAA, 0xBB, 0xCC] = .ok (.cmdCycleMode 0xAA 0xBB 0xCC) ∧
    decodeTableWord 32 0xCCBBAA01 = some (.cmdCycleMode 0xAA 0xBB 0xCC) := by decide
theorem test_decode_cmdSetVoiceMask :
    decode .cmd [0x02, 0x05, 0xFF, 0xFF] = .ok (.cmdSetVoiceMask 0x05 0xFF 0xFF) := by decide
theorem test_decode_cmdSetFilter : decode .cmd [0x03, 0x80, 0x00, 0x00] = .ok (.cmdSetFilter 0x80 0 0) := by decide
theorem test_decode_cmdUnknown : decode .cmd [0x7F, 0x01, 0x02, 0x03] = .ok (.cmdUnknown 0x7F 1 2 3) := by decide
-- R97
theorem test_decode_readyLine :
    decode .ready [0x5B, 0x44, 0x55, 0x4D, 0x50, 0x5D, 0x20, 0x52, 0x45, 0x41, 0x44, 0x59, 0x0D, 0x0A] = .ok .readyLine ∧
    decodeTableWord 112 0x0A0D5944414552205D504D55445B = some .readyLine := by decide
-- R99: no header without the magic
theorem test_decode_noMagic :
    decode .hdr10 [0x53, 0x49, 0x44, 0x47, 0x00, 0x00, 0x09, 0x00, 0x00, 0x00] = .error .noMagic := by decide
-- V-D6
theorem test_encode_frame :
    (Instr.hdr10Events 1 8).encode ++ (Instr.ev8 0 3 0 0x18 0x1F 0 5).encode =
      [0x53, 0x49, 0x44, 0x46, 0x01, 0x00, 0x08, 0x00, 0x00, 0x00, 0x03, 0x18, 0x1F, 0x00, 0x05, 0x00, 0x00, 0x00] := by
  decide

/-! ## The units -/

theorem test_scanMatch : (after .scanMatch (live .scanMagic magic)).parser.pstate = .readHeader := by decide
theorem test_scanMiss :  -- V-D21
    let t := after (.scanMiss 0x53 0x53 0x49 0x44) (live .scanMagic [0x53, 0x53, 0x49, 0x44])
    t.parser.buf = [0x53, 0x49, 0x44] ∧ t.status = [.error (.magicLost 0x53)] := by decide
theorem test_hdr12Events :  -- V-D22: an empty frame is done at once
    let t := after (.hdr12Events 0 3) (live .readHeader ((Instr.hdr12Events 0 3).encode))
    t.status = [.frameStart 3, .frameDone 3 0 12] ∧ t.parser.pstate = .scanMagic := by decide
theorem test_hdr12EventsMax :  -- V-D1
    (after (.hdr12EventsMax 9) (live .readHeader (magic ++ [0, 0x20, 0, 0, 9, 0, 0, 0]))).parser.evLeft = 8192 := by decide
theorem test_hdr12Command :  -- V-D1
    (after (.hdr12Command 9) (live .readHeader (magic ++ [0xFF, 0xFF, 0, 0, 9, 0, 0, 0]))).parser.pstate = .readCommand := by
  decide
theorem test_hdr12Oversized :  -- V-D3
    let t := after (.hdr12Oversized 65539 9) (live .readHeader (magic ++ [3, 0, 1, 0, 9, 0, 0, 0]))
    t.parser.buf = [0x49, 0x44, 0x46, 3, 0, 1, 0, 9, 0, 0, 0] ∧ t.status = [.error (.oversizedCount 65539)] := by decide

/-- The same with 10-byte headers. -/
def live10 (bs : List Byte) : State := { live .readHeader bs with cfg := { tinyCfg with hdr := .hdr10 } }

theorem test_hdr10Events :  -- V-D2
    (after (.hdr10Events 0 9) (live10 (magic ++ [0, 0, 9, 0, 0, 0]))).status = [.frameStart 9, .frameDone 9 0 10] := by decide
theorem test_hdr10EventsMax :
    (after (.hdr10EventsMax 9) (live10 (magic ++ [0, 0x20, 9, 0, 0, 0]))).parser.evLeft = 8192 := by decide
theorem test_hdr10Command :
    (after (.hdr10Command 9) (live10 (magic ++ [0xFF, 0xFF, 9, 0, 0, 0]))).parser.frameBytes = 10 := by decide
theorem test_hdr10Oversized :  -- V-D2
    (after (.hdr10Oversized 0xFFFE 9) (live10 (magic ++ [0xFE, 0xFF, 9, 0, 0, 0]))).status =
      [.error (.oversizedCount 65534)] := by decide
theorem test_ev6 :  -- V-D20, its last row
    let t := after (.ev6 0 2 3 4) (live .readEvents [2, 3, 4, 0, 0, 0])
    heldEvents t = [⟨0, 2, 3, 4⟩] ∧ t.parser.pstate = .scanMagic := by decide
theorem test_ev8 :  -- V-D4: ignored bits and pad change nothing
    let s := { live .readEvents [0xFE, 0xFF, 0x12, 0x55, 0xFF, 0xFF, 0xFF, 0xFF] with cfg := { tinyCfg with rcd := .ev8 } }
    heldEvents (after (.ev8 0x3F 2 7 0x1F 0x12 0x55 0xFFFFFFFF) s) = [⟨2, 0x1F, 0x12, 0xFFFFFFFF⟩] := by decide
theorem test_cmdCycleMode :  -- V-D60
    let t := after (.cmdCycleMode 0 0 0) (live .readCommand [1, 0, 0, 0])
    t.engine.modelMode = .m8580 ∧
    t.cellA.trace = [.setChipModel .mos8580, .reset, .write 0x17 0, .write 0x18 0x0F] := by decide
theorem test_cmdSetVoiceMask :  -- V-D5: parameters 1 and 2 are ignored
    (after (.cmdSetVoiceMask 5 0xFF 0xFF) (live .readCommand [2, 5, 0xFF, 0xFF])).engine.voiceMask = 5 := by decide
theorem test_cmdSetFilter :
    (after (.cmdSetFilter 0 0 0) (live .readCommand [3, 0, 0, 0])).engine.filterEn = false := by decide
theorem test_cmdUnknown :  -- V-D63
    let t := after (.cmdUnknown 0x7F 1 2 3) (live .readCommand [0x7F, 1, 2, 3])
    t.engine = tiny.engine ∧ t.status = [.frameDone 9 0 4] := by decide
theorem test_readyLine :  -- V-L7
    (after .readyLine { tiny with sess := .awaitingHandshake }).usb.tx =
      [0x5B, 0x44, 0x55, 0x4D, 0x50, 0x5D, 0x20, 0x52, 0x45, 0x41, 0x44, 0x59, 0x0D, 0x0A] := by decide

/-! ## Session, receiving, parser, telemetry -/

theorem test_attach :  -- P1 step 2
    let t := after .attach { tiny with engine := { tiny.engine with acc := 16092 } }
    t.engine.acc = 0 ∧ t.cellB.trace = [.setChipModel .mos6581, .reset, .write 0x17 0, .write 0x18 0x0F] := by decide
theorem test_txReadyByte :  -- V-D80: the fourteenth byte
    let t := after .txReadyByte { tiny with sess := .awaitingHandshake, txIdx := 13 }
    t.usb.tx = [0x0A] ∧ t.sess = .streaming := by decide
theorem test_detach :  -- V-D81: tx_idx is not written
    let t := after .detach { tiny with sess := .awaitingHandshake, txIdx := 5 }
    t.txIdx = 5 ∧ t.status = [.error .sessionReset] := by decide
theorem test_detach_ignored : exec .detach tiny = .next tiny := rfl  -- V-D82
theorem test_pull :  -- V-D26, its 17th pull
    let s := live .scanMagic [0x10, 0x11, 0x12, 0x13, 0x14, 0x15, 0x16, 0x17, 0x18, 0x19, 0x1A, 0x1B, 0x1C, 0x1D, 0x1E, 0x1F]
    let t := after .pull { s with cfg := { tinyCfg with eagerParse := false }, usb := { rx := [0x20] } }
    t.parser.buf = [0x18, 0x19, 0x1A, 0x1B, 0x1C, 0x1D, 0x1E, 0x1F, 0x20] ∧ t.tel.buffullCount = 1 := by decide
theorem test_bufferFull :  -- R202: the state of the parser stays
    let t := after .bufferFull (live .readEvents [1, 2, 3, 4, 5, 6, 7, 8, 9])
    t.parser.buf = [9] ∧ t.parser.pstate = .readEvents := by decide
theorem test_recentCapture :  -- R203: the index wraps at K
    let t := after (.recentCapture 0xAB) { tiny with recent := { wr := 3 } }
    t.recent = { bytes := [(3, 0xAB)], wr := 0 } := by decide
theorem test_scanMagic :  -- V-S5: three noise bytes of a window that reaches into the frame
    (after .scanMagic (live .scanMagic [0xAA, 0x53, 0x49, 0x44])).tel.resyncCount = 1 := by decide
theorem test_readHeader :  -- V-D24 (b): the 12-byte parser on a 10-byte header
    let t := after .readHeader (live .readHeader (magic ++ [1, 0, 0, 0, 1, 0, 1, 2, 3, 0, 0, 0]))
    t.parser.curFrame = 33619969 ∧ t.parser.buf = [3, 0, 0, 0] := by decide
theorem test_readEvents :  -- V-D27: a garbage record is pushed without any error
    heldEvents (after .readEvents (live .readEvents [2, 0, 0, 0, 3, 0x33, 3, 0, 0])) = [⟨0, 2, 0, 0x33030000⟩] := by decide
theorem test_readCommand :  -- R233: any non-zero byte enables
    (after .readCommand { live .readCommand [3, 0x80, 0, 0] with engine := { filterEn := false } }).engine.filterEn = true := by
  decide
theorem test_frameStart :  -- R209
    (after (.frameStart 3 7) (live .readHeader [])).parser =
      { pstate := .readHeader, curCount := 3, curFrame := 7, frameBytes := 12 } := by decide
theorem test_parserReset : (after .parserReset (live .readEvents [1, 0x98, 0])).parser = {} := by decide  -- V-D28
theorem test_controlDispatch :  -- V-D60, the third invocation
    (after (.controlDispatch 1 0 0 0) { tiny with engine := { modelMode := .split } }).engine.modelMode = .m6581 := by decide
theorem test_frameDone :  -- V-D72
    let s := { live .scanMagic [] with tel := { framesTotal := 0xFFFFFFFF, bytesTotal := 0xFFFFFFF0 } }
    let t := after .frameDone { s with parser := { frameBytes := 30 } }
    t.tel.framesTotal = 0xFFFFFFFF ∧ t.tel.bytesTotal = 0xFFFFFFFF := by decide
theorem test_driftUpdate :  -- V-D71: the fifth frame of indices 100, 101, 105, 105, 0xFFFFFFFF
    let s := { tiny with tel := { framesTotal := 4, offsetValid := true, frameOffset := 100 } }
    (after (.driftUpdate 0xFFFFFFFF) s).tel.drift.toInt = -105 := by decide

/-! ## Queue and flow -/

theorem test_push :  -- V-S2 push 5: the oldest is dropped, its delta merged
    let t := after (.push 0 0 0 500) { holding [ev 100, ev 200, ev 300, ev 400] with paused := true }
    heldEvents t = [ev 300, ev 300, ev 400, ev 500] ∧ t.queue.droppedCount = 1 := by decide
theorem test_push_narrows :  -- R181
    heldEvents (after (.push 6 (-1) 256 (-1)) tiny) = [⟨2, 31, 0, 0xFFFFFFFF⟩] := by decide
theorem test_dropOldest :  -- V-D31, V-D32: the merge wraps, the counter saturates
    let s := holding [ev 0xFFFFFFF0, ev 0x20]
    let t := after .dropOldest { s with queue := { s.queue with droppedCount := 0xFFFFFFFF } }
    heldEvents t = [ev 0x10] ∧ t.queue.droppedCount = 0xFFFFFFFF := by decide
theorem test_dropOldest_empty : exec .dropOldest tiny = .refused .queueEmpty := rfl
theorem test_pop :
    let t := after .pop (holding [ev 7, ev 8])
    t.ret = .event (some (ev 7)) ∧ heldEvents t = [ev 8] := by decide
theorem test_peek : (after .peek (holding [ev 300])).ret = .event (some (ev 300)) := by decide  -- V-D35
theorem test_depth : (after .depth (holding [ev 1, ev 2])).ret = .nat 2 := by decide
theorem test_queueReset :  -- V-D34
    let s := holding [ev 1, ev 2, ev 3, ev 4]
    let t := after .queueReset { s with paused := true, queue := { s.queue with droppedCount := 1 } }
    t.queue.count = 0 ∧ t.paused = false ∧ t.queue.droppedCount = 1 := by decide
theorem test_consumeCycles : heldEvents (after (.consumeCycles 22) (holding [ev 50, ev 10])) = [ev 28, ev 10] := by decide
theorem test_consumeCycles_beyond : exec (.consumeCycles 51) (holding [ev 50]) = .refused .runOutOfRange := rfl
theorem test_flowUpdate :  -- V-D56 in the watermarks 3 and 1: set at 3, still set at 2
    (after .flowUpdate (holding [ev 1, ev 1, ev 1])).paused = true ∧
    (after .flowUpdate { holding [ev 1, ev 1] with paused := true }).paused = true := by decide

/-! ## Scheduler -/

theorem test_renderSample :  -- V-D40: a zero-delta chain in the middle; V-D39: an event one cycle past the budget
    (after .renderSample (holding [⟨0, 1, 1, 5⟩, ⟨0, 2, 2, 0⟩, ⟨0, 3, 3, 0⟩, ⟨0, 4, 4, 9⟩])).cellA.trace =
      [.clock 5, .write 1 1, .write 2 2, .write 3 3, .clock 9, .write 4 4, .clock 8, .output] ∧
    heldEvents (after .renderSample (holding [⟨0, 1, 0xAA, 23⟩])) = [⟨0, 1, 0xAA, 1⟩] := by decide
theorem test_renderSample_forced :  -- V-S6, the same ratio
    let t := after .renderSample { tiny with cfg := { tinyCfg with clkHz := 1, fsHz := 2 } }
    t.cellB.trace = [.clock 1, .output] ∧ t.engine.acc = 0 ∧ t.status = [.error .zeroCycle] := by decide
theorem test_queueEvent :  -- V-S1, its first row
    let t := after (.queueEvent 1 0x18 0x0F 0) tiny
    heldEvents t = [⟨1, 0x18, 0x0F, 0⟩] ∧ t.cellA.trace = [] := by decide
theorem test_applyEvent :  -- V-D41: mask 2 reaches cell 1 only
    let t := after (.applyEvent ⟨2, 3, 0x30, 0⟩) tiny
    t.cellA.trace = [] ∧ t.cellB.trace = [.write 3 0x30] := by decide
theorem test_cellWrite :  -- P4: voice 0 muted, its control register
    (after (.cellWrite .a 4 0x41) { tiny with engine := { voiceMask := 1 } }).cellA.trace = [.write 4 0] := by decide
theorem test_cellWrite_gated :  -- V-D62
    exec (.cellWrite .a 0x15 1) { tiny with engine := { filterEn := false } } =
      .next { tiny with engine := { filterEn := false } } := rfl
theorem test_drainZero : heldEvents (after .drainZero (holding [ev 0, ev 0, ev 5, ev 0])) = [ev 5, ev 0] := by decide
theorem test_gain :  -- V-D50
    (after (.gain (-3)) tiny).ret = .int (-4) ∧ (after (.gain 0x80000000) tiny).ret = .int (-3221225472) := by decide
theorem test_gain_saturates :  -- V-D50
    sat16 (gainOf tinyCfg (-21847)) = BitVec.ofInt 16 (-32768) ∧ sat16 (gainOf tinyCfg 21846) = 32767 := by decide
theorem test_cellInit :  -- V-D42
    (after (.cellInit .b) { tiny with engine := { modelMode := .split } }).cellB.trace =
      [.setChipModel .mos8580, .reset, .write 0x17 0, .write 0x18 0x0F] := by decide
theorem test_cellConstruct :  -- P1 step 1
    (after (.cellConstruct .a) tiny).cellA.trace =
      [.setSamplingParameters 985248 0 44100, .enableFilter true, .enableExternalFilter true] := by decide
theorem test_engineReset :  -- V-D42
    let s := holding [ev 1, ev 2, ev 3]
    let t := after .engineReset { s with paused := true, engine := { acc := 30096, modelMode := .split, voiceMask := 1 } }
    t.engine = { modelMode := .split, voiceMask := 1 } ∧ t.queue.count = 0 ∧ t.paused = false := by decide
theorem test_resetQueueState :  -- R151: the residual stays
    let t := after .resetQueueState { holding [ev 1] with engine := { acc := 30096 } }
    t.engine.acc = 30096 ∧ t.queue.count = 0 := by decide
theorem test_getQueueDepth : (after .getQueueDepth (holding [ev 1])).ret = .nat 1 := by decide
theorem test_getDroppedEventCount :
    (after .getDroppedEventCount { tiny with queue := { droppedCount := 1 } }).ret = .word 1 := by decide
theorem test_getMonitor : (after .getMonitor tiny).cellB.trace = [.readState] := by decide  -- R152

/-! ## Pump, pool, sink, cells -/

/-- The pump holding buffer 1, `idx` frames of it rendered. -/
def pumping (idx : Nat) : State :=
  { tiny with
    pump := { active := true, buf := 1, idx := idx }
    pool := { buffers := [{ cond := .full, sampleCount := 2 }, { cond := .taken }], full := [0] } }

theorem test_pumpAcquire :  -- V-D90
    let t := after .pumpAcquire { tiny with pool := { buffers := [{ cond := .full, sampleCount := 2 }, {}], full := [0] } }
    t.pump = { active := true, buf := 1, idx := 0 } ∧ (t.pool.buffers[1]?).map Buffer.cond = some .taken := by decide
theorem test_pumpAcquire_none :  -- V-D91
    (after .pumpAcquire { tiny with pool := { buffers := [{ cond := .full }], full := [0] } }).status =
      [.error .noFreeBuffer] := by decide
theorem test_pumpRender :  -- P1 step 4: out = 1000 and −30000
    let s := { pumping 1 with cellA := { out := 1000 }, cellB := { out := BitVec.ofInt 32 (-30000) } }
    let t := after .pumpRender s
    t.pool.audio = [(3, ⟨1500, 0x8000⟩)] ∧ t.pump.idx = 2 := by decide
theorem test_pumpCommit :  -- V-D90
    let t := after .pumpCommit (pumping 2)
    t.pool.full = [0, 1] ∧ t.pump = { active := false, buf := 1, idx := 0 } := by decide
theorem test_takeFree : (after .takeFree tiny).ret = .buffer (some 0) := by decide
theorem test_giveFull : (after (.giveFull 1) (pumping 0)).pool.full = [0, 1] := by decide
theorem test_giveFull_stops :
    exec (.giveFull 2) (pumping 0) = .fault .noSuchBuffer ∧ exec (.giveFull 0) (pumping 0) = .refused .bufferNotTaken :=
  ⟨rfl, rfl⟩
theorem test_sinkFree :
    let s := pumping 0
    let t := after .sinkFree { s with pool := { s.pool with audio := [(0, ⟨1, 2⟩), (1, ⟨3, 4⟩)] } }
    t.pool.played = [⟨1, 2⟩, ⟨3, 4⟩] ∧ t.pool.full = [] := by decide
theorem test_sidWrite : (mockOf (after (.sidWrite .a 5 0x77) tiny).cellA.trace).regs[5]? = some 0x77 := by decide  -- R131
theorem test_sidClock : (after (.sidClock .b 22) tiny).cellB.trace = [.clock 22] := by decide
theorem test_sidOutput : (after (.sidOutput .a) { tiny with cellA := { out := 1000 } }).ret = .word 1000 := by decide
theorem test_sidSetChipModel : (mockOf (after (.sidSetChipModel .a .mos8580) tiny).cellA.trace).model = some .mos8580 := by
  decide
theorem test_sidReset :  -- R131
    (mockOf (after (.sidReset .a) { tiny with cellA := { trace := [.write 5 0x77, .clock 10] } }).cellA.trace).cyclesTotal = 0 := by
  decide
theorem test_sidEnableFilter : (after (.sidEnableFilter .a false) tiny).cellA.trace = [.enableFilter false] := by decide
theorem test_sidEnableExternalFilter :
    (after (.sidEnableExternalFilter .b true) tiny).cellB.trace = [.enableExternalFilter true] := by decide
theorem test_sidSetSamplingParameters :
    (after (.sidSetSamplingParameters .a 985248 1 44100) tiny).cellA.trace = [.setSamplingParameters 985248 1 44100] := by
  decide
theorem test_sidReadState : (after (.sidReadState .b) tiny).cellB.trace = [.readState] := by decide

/-! ## Reset and the step -/

-- V-D96, and P1 step 1: the first calls on each cell and the pre-fill
theorem test_reset_acc : State.reset.engine.acc = 22716 := by decide
theorem test_powerOn_trace :
    (State.afterPowerOn tinyCfg).cellA.trace =
      [.setSamplingParameters 985248 0 44100, .enableFilter true, .enableExternalFilter true, .setChipModel .mos6581, .reset,
       .write 0x17 0, .write 0x18 0x0F, .clock 22, .output, .clock 22, .output, .clock 23, .output, .clock 22, .output] := by
  decide
-- an event record placed after reset is fetched, decoded and pushed by the next step
theorem test_step_fetches :
    heldEvents (resultOf (step (State.reset.withFetchWord 48 0x01020304123F)) State.reset) = [⟨0, 0x1F, 0x12, 16909060⟩] := by
  decide

-- R300: a byte stays in rx while a session streams; U30: before READY the transport may drop it
theorem test_step_flushRx :
    (resultOf (step { live .scanMagic [] with usb := { rx := [7] }, sched := [.hostFlushRx] }) tiny).usb.rx = [7] ∧
    (resultOf (step { tiny with sess := .awaitingHandshake, usb := { rx := [7] }, sched := [.hostFlushRx] }) tiny).usb.rx = [] := by
  decide

/-! ## Witnesses: states and operands that meet the hypotheses of each statement -/

theorem test_hyp_DecodeOfEncode :
    (Instr.hdr12Oversized 8193 0).wellFormed = true ∧ (Instr.hdr12Oversized 8193 0).format = some .hdr12 ∧
    (Instr.scanMiss 0 0 0 0).wellFormed = true ∧ (Instr.scanMiss 0 0 0 0).format = some .window4 := by decide

theorem test_hyp_EncodeOfDecode : decode .cmd [4, 1, 2, 3, 99] = .ok (.cmdUnknown 4 1 2 3) := by decide

-- one byte short, exactly long enough with and without the magic, and a format without a magic
theorem test_hyp_EveryPatternIsAUnit :
    Format.hdr12 ≠ .ready ∧ (List.replicate 11 (0 : Byte)).length < Format.hdr12.len ∧
    Format.hdr12.len ≤ (magic ++ List.replicate 8 (0 : Byte)).length ∧
    (magic ++ List.replicate 8 (0 : Byte)).take 4 = magic ∧ Format.hdr10.len ≤ (List.replicate 10 (0 : Byte)).length ∧
    (List.replicate 10 (0 : Byte)).take 4 ≠ magic ∧ Format.ev6 ≠ .hdr12 ∧ Format.ev6 ≠ .hdr10 ∧
    Format.ev6.len ≤ (List.replicate 6 (0 : Byte)).length := by decide

-- the values at which the classes of a header meet: 8191, 8192, 8193, 0xFFFE, 0xFFFF, 0x10000
theorem test_hyp_HeaderFieldsAndClasses :
    leValue 0xFF 0x1F 0 0 = 8191 ∧ leValue 0 0x20 0 0 = 8192 ∧ leValue 1 0x20 0 0 = 8193 ∧ leValue 0xFE 0xFF 0 0 = 0xFFFE ∧
    leValue 0xFF 0xFF 0 0 = 0xFFFF ∧ leValue 0 0 1 0 = 0x10000 := by decide

/-- A record waiting, the PARSER agent's turn next. -/
def recordTurn : State := { live .readEvents [2, 3, 4, 0, 0, 0] with sched := [.parse] }

theorem test_hyp_StepRunsDecodedUnit :
    recordTurn.cfg.valid = true ∧ recordTurn.sess = .streaming ∧
    parserNeed recordTurn.cfg recordTurn.parser.pstate ≤ recordTurn.parser.buf.length ∧
    decode (parserFormat recordTurn) recordTurn.parser.buf = .ok (.ev6 0 2 3 4) ∧ recordTurn.sched = .parse :: [] := by decide

-- the clause for a state whose given schedule has ended
theorem test_hyp_StepRunsDecodedUnit_free :
    decode (parserFormat { recordTurn with sched := [] }) recordTurn.parser.buf = .ok (.ev6 0 2 3 4) ∧
    parserEnabled { recordTurn with sched := [] } = true := by decide

theorem test_hyp_StepRunsOtherTurns :
    tiny.cfg.valid = true ∧ { tiny with sched := [.pull] }.sched = .pull :: [] ∧
    { tiny with sched := [.queueEvent 0 0 0 0] }.sched = .queueEvent 0 0 0 0 :: [] ∧
    parserEnabled { tiny with sched := [.parse] } = false ∧ { tiny with sched := [.hostSend 1] }.sched = .hostSend 1 :: [] ∧
    { tiny with sched := [.hostTxReady false] }.sched = .hostTxReady false :: [] ∧
    { tiny with sched := [.hostFlushRx] }.sched = .hostFlushRx :: [] ∧ tiny.sess ≠ .streaming ∧
    (live .scanMagic []).cfg.valid = true ∧ (live .scanMagic []).sess = .streaming ∧
    { tiny with sched := [.setMockOut .b 5] }.sched = .setMockOut .b 5 :: [] := by decide

-- each boot requirement broken at its boundary
theorem test_hyp_BadConfigurationRefused :
    { tinyCfg with queueCap := 1 }.queueCap < 2 ∧ { tinyCfg with bufSize := 11 }.bufSize < 12 ∧
    { tinyCfg with recentSize := 0 }.recentSize = 0 ∧ { tinyCfg with frames := 0 }.frames = 0 ∧
    { tinyCfg with nbuf := 1 }.nbuf < 2 ∧ { tinyCfg with clkHz := 0 }.clkHz = 0 ∧
    2 ^ 32 ≤ { tinyCfg with clkHz := 2 ^ 32 }.clkHz ∧ { tinyCfg with fsHz := 0 }.fsHz = 0 ∧
    2 ^ 32 ≤ { tinyCfg with fsHz := 2 ^ 32 }.fsHz ∧ { tinyCfg with gainDen := 0 }.gainDen = 0 ∧
    { tinyCfg with lowWm := 3 }.highWm ≤ { tinyCfg with lowWm := 3 }.lowWm ∧
    { tinyCfg with highWm := 5 }.queueCap < { tinyCfg with highWm := 5 }.highWm ∧
    { tinyCfg with muteXform := .table [⟨0, 4, 0x41, 0⟩] }.muteXform = .table [⟨0, 4, 0x41, 0⟩] ∧
    (∃ r ∈ [(⟨0, 4, 0x41, 0⟩ : MuteRow)], r.voices = 0) ∧ { tiny with cfg := { tinyCfg with bufSize := 11 } }.cfg.bufSize < 12 := by
  decide

theorem test_hyp_ScanUnitsComplete :
    (live .scanMagic magic).sess = .streaming ∧ (live .scanMagic magic).parser.pstate = .scanMagic ∧
    4 ≤ (live .scanMagic magic).parser.buf.length ∧ (live .readHeader (List.replicate 12 0)).parser.pstate = .readHeader ∧
    tinyCfg.hdr.len ≤ (live .readHeader (List.replicate 12 0)).parser.buf.length := by decide

theorem test_hyp_EventHeadersComplete :
    (live .readHeader (magic ++ List.replicate 8 0)).sess = .streaming ∧
    (live .readHeader (magic ++ List.replicate 8 0)).parser.pstate = .readHeader ∧ tinyCfg.hdr = .hdr12 ∧
    HdrVariant.hdr12.len ≤ (live .readHeader (magic ++ List.replicate 8 0)).parser.buf.length ∧
    (live10 (magic ++ List.replicate 6 0)).cfg.hdr = .hdr10 ∧
    HdrVariant.hdr10.len ≤ (live10 (magic ++ List.replicate 6 0)).parser.buf.length := by decide

theorem test_hyp_OtherHeadersComplete :
    (live .readHeader (List.replicate 12 0)).sess = .streaming ∧
    (live .readHeader (List.replicate 12 0)).cfg.hdr.len ≤ (live .readHeader (List.replicate 12 0)).parser.buf.length ∧
    (live10 (List.replicate 10 0)).cfg.hdr.len ≤ (live10 (List.replicate 10 0)).parser.buf.length := by decide

theorem test_hyp_EventRecordsComplete :
    recordTurn.sess = .streaming ∧ recordTurn.parser.pstate = .readEvents ∧ recordTurn.cfg.rcd = .ev6 ∧
    RecVariant.ev6.len ≤ recordTurn.parser.buf.length ∧ recordTurn.parser.evLeft = 1 ∧
    1 < { recordTurn with parser := { recordTurn.parser with evLeft := 8192 } }.parser.evLeft := by decide

theorem test_hyp_CommandRecordsComplete :
    (live .readCommand [4, 0, 0, 0]).sess = .streaming ∧ (live .readCommand [4, 0, 0, 0]).parser.pstate = .readCommand ∧
    4 ≤ (live .readCommand [4, 0, 0, 0]).parser.buf.length ∧ (0x04 : Byte) ≠ 0x01 ∧ (0x04 : Byte) ≠ 0x02 ∧
    (0x04 : Byte) ≠ 0x03 := by decide

-- a unit out of session and short of bytes, then each unit and each parser operation in another state or of the other variant
theorem test_hyp_DisabledOperationsWait :
    (Instr.ev6 0 0 0 0).format = some .ev6 ∧ Format.ev6 ≠ .ready ∧ tiny.sess ≠ .streaming ∧
    (live .readEvents [1, 2, 3, 4, 5]).parser.buf.length < parserNeed tinyCfg .readEvents ∧
    (live .readEvents [1, 2, 3, 4]).parser.pstate ≠ .scanMagic ∧ (live .readEvents [1, 2, 3, 4]).parser.pstate ≠ .readHeader ∧
    (live .readEvents [1, 2, 3, 4]).parser.pstate ≠ .readCommand ∧ (live .scanMagic magic).parser.pstate ≠ .readEvents := by
  decide

theorem test_hyp_DisabledOperationsWait_variants :
    (Instr.hdr12Command 0).format = some .hdr12 ∧ (live10 magic).cfg.hdr ≠ .hdr12 ∧
    (Instr.hdr10Command 0).format = some .hdr10 ∧ (live .readHeader magic).cfg.hdr ≠ .hdr10 ∧
    (Instr.ev8 0 0 0 0 0 0 0).format = some .ev8 ∧ (live .readEvents []).cfg.rcd ≠ .ev8 ∧
    { tiny with cfg := { tinyCfg with rcd := .ev8 } }.cfg.rcd ≠ .ev6 ∧ (Instr.cmdUnknown 4 0 0 0).format = some .cmd := by decide

theorem test_hyp_DisabledOperationsWait_ports :
    (live .scanMagic magic).sess ≠ .awaitingHandshake ∧ { tiny with usb := { txReady := false } }.usb.txReady = false ∧
    parserEnabled (live .scanMagic magic) = true ∧ (live .scanMagic magic).cfg.eagerParse = true ∧
    (live .scanMagic magic).usb.rx = [] ∧ { tiny with paused := true }.paused = true := by decide

theorem test_hyp_ParserStepsMakeProgress :
    (live .readEvents [1, 2, 3, 4, 5, 6]).sess = .streaming ∧
    parserNeed tinyCfg .readEvents ≤ (live .readEvents [1, 2, 3, 4, 5, 6]).parser.buf.length ∧
    parserNeed tinyCfg .scanMagic ≤ (live .scanMagic magic).parser.buf.length := by decide

theorem test_hyp_FrameDoneAccounts :
    tiny.tel.offsetValid = false ∧ { tiny with tel := { offsetValid := true } }.tel.offsetValid = true := by decide

/-- A byte to pull, `n` bytes buffered, under the lazy schedule. -/
def pulling (n : Nat) : State :=
  { live .scanMagic (List.replicate n 0) with cfg := { tinyCfg with eagerParse := false }, usb := { rx := [7] } }

theorem test_hyp_PullCompletes :
    (pulling 15).sess = .streaming ∧ (pulling 15).paused = false ∧ (pulling 15).usb.rx = 7 :: [] ∧
    (pulling 15).cfg.eagerParse = false ∧ (pulling 15).parser.buf.length ≠ (pulling 15).cfg.bufSize ∧
    (pulling 16).parser.buf.length = (pulling 16).cfg.bufSize := by decide

theorem test_hyp_AttachResetsTheSession :
    tiny.sess = .disconnected ∧ 0 < tiny.cfg.highWm ∧ (live .scanMagic []).sess ≠ .disconnected := by decide

theorem test_hyp_DetachKeepsTheCells :
    (live .scanMagic []).sess ≠ .disconnected ∧ 0 < (live .scanMagic []).cfg.highWm ∧ tiny.sess = .disconnected := by decide

/-- A handshake at byte `k`. -/
def shaking (k : Nat) : State := { tiny with sess := .awaitingHandshake, txIdx := k }

theorem test_hyp_TxReadyByteSends :
    (shaking 0).sess = .awaitingHandshake ∧ (shaking 0).usb.txReady = true ∧ readyBytes[(shaking 0).txIdx]? = some 0x5B ∧
    readyBytes[(shaking 13).txIdx]? = some 0x0A ∧ { shaking 0 with usb := { txReady := false } }.usb.txReady = false := by decide

theorem test_hyp_HandshakeSendsTheLine :
    (shaking 13).sess = .awaitingHandshake ∧ (shaking 13).usb.txReady = true ∧ (shaking 13).txIdx < 14 ∧
    (shaking 0).txIdx < 14 := by decide

theorem test_hyp_PushWithRoom :
    (holding []).queue.count ≠ tinyCfg.queueCap ∧ (holding [ev 1, ev 2, ev 3]).queue.count ≠ tinyCfg.queueCap := by decide

theorem test_hyp_PushOnFullRing :
    let s := holding [ev 1, ev 2, ev 3, ev 4]
    2 ≤ s.cfg.queueCap ∧ s.queue.count = s.cfg.queueCap ∧ s.queue.head < s.cfg.queueCap ∧ s.queue.tail = s.queue.head := by
  decide

theorem test_hyp_DropOldestCompletes :
    (holding []).queue.count = 0 ∧ (holding [ev 1]).queue.count = 1 ∧ 1 < (holding [ev 1, ev 2]).queue.count := by decide

theorem test_hyp_PopCompletes : (holding []).queue.count = 0 ∧ 0 < (holding [ev 1]).queue.count := by decide

theorem test_hyp_AccessorsAnswer : (holding []).queue.count = 0 ∧ 0 < (holding [ev 1]).queue.count := by decide

theorem test_hyp_QueueResetsComplete : 0 < (holding [ev 1]).cfg.highWm := by decide

-- the watermarks themselves, one below the high and one above the low
theorem test_hyp_FlowUpdateIsHysteresis :
    tinyCfg.lowWm < tinyCfg.highWm ∧ tinyCfg.highWm ≤ (holding [ev 1, ev 1, ev 1]).queue.count ∧
    (holding [ev 1, ev 1]).queue.count < tinyCfg.highWm ∧ tinyCfg.lowWm < (holding [ev 1, ev 1]).queue.count ∧
    { holding [ev 1] with paused := true }.queue.count ≤ tinyCfg.lowWm := by decide

theorem test_hyp_ConsumeCyclesCompletes :
    0 < (holding [ev 50]).queue.count ∧ (ringAt (holding [ev 50]) 0).delta.toNat < (51 : Word32).toNat ∧
    1 ≤ (50 : Word32).toNat ∧ (50 : Word32).toNat ≤ (ringAt (holding [ev 50]) 0).delta.toNat ∧ (holding []).queue.count = 0 := by
  decide

theorem test_hyp_QueueOk : QueueOk (holding [ev 100, ev 200, ev 300, ev 400]) ∧ QueueOk (holding [ev 100]) :=
  ⟨⟨by decide, by decide, by decide, by decide, by decide⟩, ⟨by decide, by decide, by decide, by decide, by decide⟩⟩

theorem test_hyp_DeltaConservation :
    2 ≤ tinyCfg.queueCap ∧ 0 < (holding [ev 100]).queue.count ∧ 1 ≤ (100 : Word32).toNat ∧
    (100 : Word32).toNat ≤ (ringAt (holding [ev 100]) (holding [ev 100]).queue.head).delta.toNat := by decide

theorem test_hyp_QueueKeepsOrder :
    (holding [ev 100]).queue.count < tinyCfg.queueCap ∧ 0 < (holding [ev 100]).queue.count ∧
    (holding [ev 100, ev 200, ev 300, ev 400]).queue.count = tinyCfg.queueCap := by decide

/-- The straps of V-S6: more samples than cycles. -/
def slow : State := { tiny with cfg := { tinyCfg with clkHz := 1000, fsHz := 2000 } }

theorem test_hyp_RenderSampleAdvances :
    (slow.engine.acc + slow.cfg.clkHz) / slow.cfg.fsHz = 0 ∧ (tiny.engine.acc + tiny.cfg.clkHz) / tiny.cfg.fsHz ≠ 0 := by decide

-- the queues of V-D38 (due at the end of the budget), V-D39 (one cycle past it) and V-D40 (a chain of zero deltas)
theorem test_hyp_RenderSampleAdvances_queue :
    QueueOk (holding [ev 22]) ∧ QueueOk (holding [ev 23]) ∧ QueueOk (holding [ev 5, ev 0, ev 0, ev 9]) ∧
    (tiny.engine.acc + tiny.cfg.clkHz) / tiny.cfg.fsHz = 22 :=
  ⟨⟨by decide, by decide, by decide, by decide, by decide⟩, ⟨by decide, by decide, by decide, by decide, by decide⟩,
   ⟨by decide, by decide, by decide, by decide, by decide⟩, by decide⟩

theorem test_hyp_RenderRunTotal :
    0 < slow.cfg.fsHz ∧ 0 < slow.cfg.clkHz ∧ slow.engine.acc < slow.cfg.fsHz ∧ slow.cfg.clkHz < slow.cfg.fsHz ∧
    tiny.engine.acc < tiny.cfg.fsHz ∧ tiny.cfg.fsHz ≤ tiny.cfg.clkHz := by decide

theorem test_hyp_EventsAreAppliedThroughTheGate :
    (ev 0).chipMask = 0 ∧ (0x15 : SidAddr) ∈ tinyCfg.filterRegs ∧ (0x18 : SidAddr) ∉ tinyCfg.filterRegs ∧
    { tiny with engine := { filterEn := false } }.engine.filterEn = false ∧ tinyCfg.muteXform.lawful = true ∧
    tiny.engine.voiceMask &&& 7 = 0 ∧ tinyCfg.muteXform = .default := by decide

-- the masks, and a table of one row that mutes voice 0's control register
theorem test_hyp_EventsAreAppliedThroughTheGate_masks :
    ({ ev 0 with chipMask := 1 } : Event).chipMask = 1 ∧ ({ ev 0 with chipMask := 2 } : Event).chipMask = 2 ∧
    ({ ev 0 with chipMask := 3 } : Event).chipMask = 3 ∧
    { tinyCfg with muteXform := .table [⟨1, 4, 0x41, 0⟩] }.muteXform = .table [⟨1, 4, 0x41, 0⟩] ∧
    { tinyCfg with muteXform := .table [⟨1, 4, 0x41, 0⟩] }.muteXform.lawful = true := by decide

theorem test_hyp_InitialisationsComplete : 0 < tiny.cfg.highWm := by decide

theorem test_hyp_CellResultsRepeatAndMockStores : CellId.b ≠ CellId.a ∧ tiny.cfg.mockCells = true := by decide

theorem test_hyp_AcquireCompletes :
    (pumping 0).pump.active = true ∧ (∀ x ∈ (pumping 0).pool.buffers, x.cond ≠ .free) ∧
    tiny.pool.buffers[0]? = some ({ cond := .free } : Buffer) ∧ tiny.pump.active = false := by decide

theorem test_hyp_PumpRenderCompletes :
    (pumping 1).pump.active = true ∧ (pumping 1).pump.idx < (pumping 1).cfg.frames ∧
    (pumping 2).cfg.frames ≤ (pumping 2).pump.idx ∧ tiny.pump.active = false := by decide

theorem test_hyp_CommitGiveAndSinkComplete :
    (pumping 2).pump.active = true ∧ (pumping 2).pump.idx = (pumping 2).cfg.frames ∧
    (pumping 2).pool.buffers[1]? = some { cond := .taken } ∧ (pumping 2).pool.buffers[2]? = none ∧
    (pumping 2).pool.full = 0 :: [] ∧ (pumping 1).pump.idx ≠ (pumping 1).cfg.frames ∧ tiny.pool.full = [] := by decide

theorem test_hyp_PumpWritesSamplesInOrder :
    (pumping 0).pump.active = true ∧ (pumping 0).pump.idx = 0 ∧ 2 ≤ (pumping 0).cfg.frames := by decide

/-- A streaming state with a record buffered and its frame in progress, the parser's turn next. -/
def steady : State := { recordTurn with parser := { recordTurn.parser with frameBytes := 12 } }

theorem test_hyp_Inv : Machine.Inv steady where
  valid := by decide
  queue := ⟨by decide, by decide, by decide, by decide, by decide⟩
  parser := ⟨by decide, by decide, by decide, by decide⟩
  session := ⟨by decide, by decide⟩
  clock := ⟨by decide, by decide, by decide, by decide, by decide⟩
  memory := ⟨by decide, by decide, by decide, by decide, by decide⟩

theorem test_hyp_EagerOk : EagerOk steady := ⟨by decide, by decide, by decide, by decide, by decide, by decide⟩

theorem test_hyp_PoolOk : PoolOk steady where
  length := by decide
  taken := by
    intro b
    match b with
    | 0 => decide
    | 1 => decide
    | n + 2 => exact ⟨fun h => absurd h Bool.false_ne_true, fun h => absurd h.1 Bool.false_ne_true⟩
  full := by
    intro b
    match b with
    | 0 => decide
    | 1 => decide
    | n + 2 => exact ⟨fun h => absurd h List.not_mem_nil, fun h => absurd h Bool.false_ne_true⟩
  nodup := List.Pairwise.nil
  counted := fun _ h => absurd h List.not_mem_nil
  written := fun _ h => absurd h List.not_mem_nil
  filling := fun h => absurd h Bool.false_ne_true

-- a step of it answers a next state; it is an eager one, its turn is no queue_event and no attach
theorem test_hyp_steps :
    (∃ t, step steady = .next t) ∧ steady.cfg.eagerParse = true ∧ (nextTurn steady).1 = .parse := ⟨⟨_, rfl⟩, by decide, by decide⟩

theorem test_hyp_ResetHasInv : tinyCfg.valid = true ∧ Config.standard.valid = true := by decide

theorem test_hyp_PowerOnLeaves :
    tinyCfg.valid = true ∧ tinyCfg.fsHz ≤ tinyCfg.clkHz ∧ slow.cfg.valid = true ∧ slow.cfg.clkHz < slow.cfg.fsHz := by decide

theorem test_hyp_RegistersHaveFixedWriters :
    (Instr.controlDispatch 2 5 0 0).wellFormed = true ∧ (∃ t, exec (.controlDispatch 2 5 0 0) tiny = .next t ∧
      t.engine.voiceMask ≠ tiny.engine.voiceMask) := ⟨by decide, _, rfl, by decide⟩

theorem test_hyp_ResyncAfterNoise :
    let s := live .scanMagic ([0xAA, 0x53] ++ magic)
    s.sess = .streaming ∧ s.parser.pstate = .scanMagic ∧ s.parser.buf = [0xAA, 0x53] ++ magic ∧ magic.take 4 = magic ∧
    ∀ k, k < [0xAA, 0x53].length → (s.parser.buf.drop k).take 4 ≠ magic := by decide

end Sys2Proof.Tests
end

