-- ==== Sys2Proof/Proofs/Step.lean ====
section
/-!
PROOFS. Which operation a step executes (spec/00_scope.md R11, R104; spec/44_frame_parser.md R200; spec/60_exceptions.md R302):
the next turn, the unit the parser fetches on its turn, and the step that executes it.
-/

namespace Sys2Proof.Proofs

open Sys2Proof.Machine

/-- While turns are given, the first of them is next and the others stay given (R11). -/
theorem nextTurn_of_sched_cons {s : State} {c : Choice} {cs : List Choice} (h : s.sched = c :: cs) :
    nextTurn s = (c, { s with sched := cs }) := by
  rw [nextTurn, h]

/-- After the end of the given turns the next one is a free choice, and the choice is used up (R302). -/
theorem nextTurn_of_sched_nil {s : State} (h : s.sched = []) :
    nextTurn s = (Config.freeChoice s.draws, { s with draws := s.draws + 1 }) := by
  rw [nextTurn, h]

/-- Giving the next free choice as the only turn leads to the same turn and the same state to execute it in. -/
theorem nextTurn_give_freeChoice {s : State} (h : s.sched = []) :
    nextTurn { s with sched := [Config.freeChoice s.draws], draws := s.draws + 1 } = nextTurn s := by
  have given : nextTurn { s with sched := [Config.freeChoice s.draws], draws := s.draws + 1 } =
      (Config.freeChoice s.draws, { s with sched := [], draws := s.draws + 1 }) := nextTurn_of_sched_cons rfl
  rw [given, nextTurn_of_sched_nil h, ← h]

/-- A parser with enough bytes for its state fetches the unit that the front of `BUF` decodes to (R104, R200). -/
theorem fetchUnit_of_decode {s : State} {i : Instr} (hsess : s.sess = .streaming)
    (hneed : parserNeed s.cfg s.parser.pstate ≤ s.parser.buf.length)
    (hdec : decode (parserFormat s) s.parser.buf = .ok i) : fetchUnit s = some i := by
  have hen : parserEnabled s = true := (Laws.parserReady_iff _ _).2 ⟨hsess, rfl, hneed⟩
  rw [fetchUnit, if_pos hen, hdec]

/-- What the parser fetches does not depend on the turns that follow. -/
theorem fetchUnit_sched (s : State) (cs : List Choice) : fetchUnit { s with sched := cs } = fetchUnit s := rfl

/-- On a turn with an operation, a step of an admissible configuration is that operation (R11). -/
theorem step_of_turnInstr_some {s : State} {i : Instr} (hv : s.cfg.valid = true)
    (ht : turnInstr (nextTurn s).1 (nextTurn s).2 = some i) : step s = exec i (nextTurn s).2 := by
  rw [step, if_pos hv, ht]

/-- A step sees its state through the straps' validity and the next turn only. -/
theorem step_congr {s t : State} (hcfg : s.cfg = t.cfg) (hturn : nextTurn s = nextTurn t) : step s = step t := by
  rw [step, step, hcfg, hturn]

/-- On the parser's turn a step is the unit the parser fetches (R104). -/
theorem step_parse_of_fetchUnit {s : State} {i : Instr} {cs : List Choice} (hv : s.cfg.valid = true)
    (hs : s.sched = .parse :: cs) (hf : fetchUnit s = some i) : step s = exec i { s with sched := cs } := by
  have turn := nextTurn_of_sched_cons hs
  have fetched : turnInstr (nextTurn s).1 (nextTurn s).2 = some i := by
    rw [turn]
    exact (fetchUnit_sched s cs).trans hf
  rw [step_of_turnInstr_some hv fetched, turn]

/-- Settles O7: on the parser's turn the step executes the fetched unit, and with no turn given the next free choice may as well
be given. -/
theorem stepRunsDecodedUnit : Obligations.StepRunsDecodedUnit := by
  intro s i hv hsess hneed hdec
  constructor
  · intro cs hs
    exact step_parse_of_fetchUnit hv hs (fetchUnit_of_decode hsess hneed hdec)
  · intro hs
    exact step_congr rfl (nextTurn_give_freeChoice hs).symm

end Sys2Proof.Proofs
end

section
/-!
PROOFS. The control commands and `PULL` (spec/45_control.md R230 to R234; spec/44_frame_parser.md R201 to R203): what each
leaves, read off the lemmas of Laws/Control.lean, Laws/State.lean and Laws/Memory.lean.
-/

namespace Sys2Proof.Proofs

open Sys2Proof.Machine Sys2Proof.Laws

/-- CYCLE_MODE written out: the next mode, and both cells initialised with it (R148, R231). -/
theorem cycleMode_eq (s : State) :
    cycleMode s = { s with
      engine := { s.engine with modelMode := nextMode s.engine.modelMode }
      cellA := { s.cellA with trace := s.cellA.trace ++ initCalls s.cfg (nextMode s.engine.modelMode) .a }
      cellB := { s.cellB with trace := s.cellB.trace ++ initCalls s.cfg (nextMode s.engine.modelMode) .b } } := by
  simp [cycleMode, cellInit, callCells_a, callCells_b]

/-- The chip of cell 0 after one CYCLE_MODE (R32, R231). -/
theorem modelOf_nextMode_a (m : ModelMode) :
    modelOf (nextMode m) .a = if m = .m6581 then .mos8580 else .mos6581 := by
  cases m <;> rfl

/-- The chip of cell 1 after one CYCLE_MODE (R32, R231). -/
theorem modelOf_nextMode_b (m : ModelMode) :
    modelOf (nextMode m) .b = if m = .split then .mos6581 else .mos8580 := by
  cases m <;> rfl

/-- A dispatched command completes (R230). -/
theorem exec_controlDispatch (op p0 p1 p2 : Byte) (s : State) :
    exec (.controlDispatch op p0 p1 p2) s = .next (controlDispatch op p0 s) := rfl

/-- Settles O21: the four cases of the dispatch. -/
theorem commandsDispatch : Obligations.CommandsDispatch := by
  intro s op p0 p1 p2
  rw [exec_controlDispatch]
  refine ⟨?cycle, ?mask, ?filter, ?unknown⟩
  case cycle =>
    rintro rfl
    refine ⟨cycleMode s, by rw [controlDispatch_cycle], ?_⟩
    rw [cycleMode_eq]
    refine ⟨fun h => ?_, fun h => ?_, fun h => ?_, rfl, ?_, ?_, rfl⟩
    · simp [h, nextMode]
    · simp [h, nextMode]
    · simp [h, nextMode]
    · simp [initCalls, modelOf_nextMode_a]
    · simp [initCalls, modelOf_nextMode_b]
  case mask =>
    rintro rfl
    rw [controlDispatch_mask]
    rfl
  case filter =>
    rintro rfl
    rw [controlDispatch_filter]
    by_cases h : p0 = 0 <;> simp [setFilter, h]
  case unknown =>
    intro h1 h2 h3
    rw [controlDispatch_unknown op p0 s h1 h2 h3]

/-- An enabled `PULL` is `pullByte` (R201, R211). -/
theorem exec_pull_of_allowed {s : State} {b : Byte} {rest : List Byte} (hrx : s.usb.rx = b :: rest)
    (ha : pullAllowed s = true) : exec .pull s = .next (pullByte b rest s) := by
  show execPull s = _
  rw [execPull, hrx]
  exact congrArg _ (if_pos ha)

/-- The guard of `PULL`, as its four parts (R201, R211). -/
theorem pullAllowed_iff (s : State) :
    pullAllowed s = true ↔
      s.sess = .streaming ∧ s.paused = false ∧ (s.cfg.eagerParse = true → parserEnabled s = false) := by
  cases he : s.cfg.eagerParse <;> simp [pullAllowed, he, and_assoc]

/-- `PULL` captures its byte in the recent-bytes ring (R203). -/
@[simp] theorem pullByte_recent (b : Byte) (rest : List Byte) (s : State) :
    (pullByte b rest s).recent =
      { s.recent with
        bytes := memWrite s.recent.bytes s.recent.wr b, wr := (s.recent.wr + 1) % s.cfg.recentSize } := by
  unfold pullByte recentCapture
  dsimp only
  split <;> simp

/-- `PULL` takes its byte from the front of `rx` and leaves the rest of the transport alone (R201). -/
@[simp] theorem pullByte_usb (b : Byte) (rest : List Byte) (s : State) :
    (pullByte b rest s).usb = { s.usb with rx := rest } := by
  unfold pullByte
  dsimp only
  split <;> simp

/-- `PULL` with room in the buffer appends the byte, and neither counts nor reports anything (R201). -/
theorem pullByte_of_room (b : Byte) (rest : List Byte) {s : State} (h : s.parser.buf.length ≠ s.cfg.bufSize) :
    (pullByte b rest s).parser = { s.parser with buf := s.parser.buf ++ [b] } ∧
    (pullByte b rest s).tel = s.tel ∧ (pullByte b rest s).status = s.status := by
  unfold pullByte
  dsimp only
  rw [if_neg h]
  simp

/-- `PULL` into a full buffer discards the older half first, which it counts and reports (R201, R202). -/
theorem pullByte_of_full (b : Byte) (rest : List Byte) {s : State} (h : s.parser.buf.length = s.cfg.bufSize) :
    (pullByte b rest s).parser = { s.parser with buf := s.parser.buf.drop (s.cfg.bufSize / 2) ++ [b] } ∧
    (pullByte b rest s).tel = { s.tel with buffullCount := satinc32 s.tel.buffullCount } ∧
    (pullByte b rest s).status = s.status ++ [.error .bufferFull] := by
  unfold pullByte
  dsimp only
  rw [if_pos h]
  simp [bufferFull]

/-- Settles O22: the two cases of the buffer, and the ring of recent bytes written at its write index only. -/
theorem pullCompletes : Obligations.PullCompletes := by
  intro s b rest hsess hpaused hrx heager
  refine ⟨pullByte b rest s, exec_pull_of_allowed hrx ((pullAllowed_iff s).2 ⟨hsess, hpaused, heager⟩),
    pullByte_usb b rest s, pullByte_of_room b rest, fun hfull => ?_, ?_, fun a ha => ?_, ?_, ?_⟩
  · obtain ⟨hparser, htel, hstatus⟩ := pullByte_of_full b rest hfull
    exact ⟨hparser, by rw [htel], by rw [htel]; exact satinc32_toNat _, hstatus⟩
  · simp
  · rw [pullByte_recent]
    exact memRead_memWrite_other _ _ ha
  · simp
  · apply State.ext <;> simp

end Sys2Proof.Proofs
end

section
/-!
PROOFS. What one step can do, said once (spec/00_scope.md R11; spec/60_exceptions.md R302; spec/70_reset_and_hazards.md R360):
`UnitResult` lists what the parser's turn leaves, `TurnResult` what any turn leaves, and `step_cases` ties both to `step`. A
property of every step is then a case analysis over the two lists.
-/

namespace Sys2Proof.Proofs

open Sys2Proof.Machine Sys2Proof.Laws

/-- What executing a unit from the host may leave of `s`, with the guard under which it runs (R200, R204 to R207). -/
inductive UnitResult (s : State) : State → Prop
  | waits : UnitResult s s
  | scanMatch : parserReady .scanMagic s = true → UnitResult s (setPstate .readHeader s)
  | loseMagic (b : Byte) : s.sess = .streaming → UnitResult s (loseMagic b s)
  | rejectCount (c : Word32) : parserReady .readHeader s = true → UnitResult s (rejectCount c s)
  | acceptCommand (f : Word32) : parserReady .readHeader s = true → UnitResult s (acceptCommand f s)
  | acceptEvents (c f : Word32) : parserReady .readHeader s = true → c.toNat ≤ maxCount → UnitResult s (acceptEvents c f s)
  | acceptRecord (e : Event) : parserReady .readEvents s = true → UnitResult s (acceptRecord e s)
  | acceptCommandRecord (op p0 : Byte) : parserReady .readCommand s = true → UnitResult s (acceptCommandRecord op p0 s)

/-- What a turn may leave of `s`, with the guard under which it does (R106, R278, R302). -/
inductive TurnResult (s : State) : Choice → State → Prop
  | unit {t : State} : UnitResult s t → TurnResult s .parse t
  | attach : s.sess = .disconnected → TurnResult s .attach (attachSession s)
  | detach : s.sess ≠ .disconnected → TurnResult s .detach (detachSession s)
  | sendReady (c : Choice) (n : Nat) : TurnResult s c (txReadyBytes n s)
  | pull (b : Byte) (rest : List Byte) : pullAllowed s = true → TurnResult s .pull (pullByte b rest s)
  | pumpAcquire : TurnResult s .pumpAcquire (pumpAcquire s)
  | pumpRender : TurnResult s .pumpRender (pumpRender s)
  | pumpCommit : TurnResult s .pumpCommit (pumpCommit s)
  | sinkFree : TurnResult s .sinkFree (sinkFree s)
  | queueEvent (m a v d : Int) (r : PortValue) :
      TurnResult s (.queueEvent m a v d) (answer r (push (narrowEvent m a v d) s))
  | renderSample (r : PortValue) : TurnResult s .renderSample (answer r (renderSample s))
  | getMonitor (r : PortValue) :
      TurnResult s .getMonitor (answer r (callCell .b .readState (callCell .a .readState s)))
  | answers (c : Choice) (r : PortValue) : TurnResult s c (answer r s)
  | environment (c : Choice) : TurnResult s c (environment c s)

/-- A turn that leaves the state alone is one of the environment's. -/
theorem TurnResult.waits (c : Choice) (s : State) (h : Machine.environment c s = s) : TurnResult s c s := by
  have := TurnResult.environment (s := s) c
  rwa [h] at this

/-! ### The parser's turn -/

theorem classifyHdr12_format (c f : Word32) : (classifyHdr12 c f).format = some .hdr12 := by
  unfold classifyHdr12
  split_ifs <;> rfl

theorem classifyHdr10_format (c : BitVec 16) (f : Word32) : (classifyHdr10 c f).format = some .hdr10 := by
  unfold classifyHdr10
  split_ifs <;> rfl

theorem classifyCommand_format (op p0 p1 p2 : Byte) : (classifyCommand op p0 p1 p2).format = some .cmd := by
  unfold classifyCommand
  split_ifs <;> rfl

/-- The decoder gives a unit of the format asked for (R104). -/
theorem format_of_decode {fmt : Format} {bs : List Byte} {i : Instr} (h : decode fmt bs = .ok i) : i.format = some fmt := by
  cases fmt with
  | window4 =>
    simp only [decode, decodeWindow4] at h
    split at h <;> cases h
    split_ifs <;> rfl
  | hdr12 =>
    simp only [decode, decodeHdr12] at h
    split at h
    · split_ifs at h
      cases h
      exact classifyHdr12_format _ _
    · cases h
  | hdr10 =>
    simp only [decode, decodeHdr10] at h
    split at h
    · split_ifs at h
      cases h
      exact classifyHdr10_format _ _
    · cases h
  | ev6 =>
    simp only [decode, decodeEv6] at h
    split at h <;> cases h
    rfl
  | ev8 =>
    simp only [decode, decodeEv8] at h
    split at h <;> cases h
    rfl
  | cmd =>
    simp only [decode, decodeCmd] at h
    split at h <;> cases h
    exact classifyCommand_format _ _ _ _
  | ready =>
    simp only [decode, decodeReady] at h
    split_ifs at h
    cases h
    rfl

/-- The parser never asks for the READY line, which is not from the host (R98). -/
theorem parserFormat_ne_ready (s : State) : parserFormat s ≠ .ready := by
  unfold parserFormat
  split
  · simp
  · split_ifs
    · split <;> simp
    · simp
  · split <;> simp
  · simp

/-- The count of an event header with the class bits of R89 is one an event frame may have. -/
theorem toNat_setWidth_le_maxCount (c : BitVec 13) : (c.setWidth 32).toNat ≤ maxCount := by
  have := c.isLt
  simp only [BitVec.toNat_setWidth, maxCount]
  omega

/-- A guarded effect is the effect or nothing. -/
theorem UnitResult.of_ite {s t x : State} {g : Bool} (h : (.next (if g then x else s) : Outcome) = .next t)
    (hx : g = true → UnitResult s x) : UnitResult s t := by
  cases h
  split
  · exact hx ‹_›
  · exact .waits

/-- The guard of a header unit is that of `READ_HEADER` (R205). -/
theorem parserReady_of_headerReady {v : HdrVariant} {s : State} (h : headerReady v s = true) :
    parserReady .readHeader s = true := by
  simp only [headerReady, Bool.and_eq_true] at h
  exact h.2

/-- The guard of a record unit is that of `READ_EVENTS` (R206). -/
theorem parserReady_of_recordReady {v : RecVariant} {s : State} (h : recordReady v s = true) :
    parserReady .readEvents s = true := by
  simp only [recordReady, Bool.and_eq_true] at h
  exact h.2

/-- A unit from the host leaves one of the results listed. -/
theorem unitResult_of_exec {s t : State} {i : Instr} {fmt : Format} (hfmt : i.format = some fmt) (hready : fmt ≠ .ready)
    (h : exec i s = .next t) : UnitResult s t := by
  cases i with
  | scanMatch => exact .of_ite h .scanMatch
  | scanMiss b0 =>
    refine .of_ite h fun hg => .loseMagic b0 ?_
    rcases Bool.or_eq_true_iff.1 hg with hg | hg <;> exact ((parserReady_iff _ _).1 hg).1
  | hdr12Events c f =>
    exact .of_ite h fun hg => .acceptEvents _ f (parserReady_of_headerReady hg) (toNat_setWidth_le_maxCount c)
  | hdr12EventsMax f => exact .of_ite h fun hg => .acceptEvents _ f (parserReady_of_headerReady hg) (by decide)
  | hdr12Command f => exact .of_ite h fun hg => .acceptCommand f (parserReady_of_headerReady hg)
  | hdr12Oversized c f => exact .of_ite h fun hg => .rejectCount _ (parserReady_of_headerReady hg)
  | hdr10Events c f =>
    exact .of_ite h fun hg => .acceptEvents _ f (parserReady_of_headerReady hg) (toNat_setWidth_le_maxCount c)
  | hdr10EventsMax f => exact .of_ite h fun hg => .acceptEvents _ f (parserReady_of_headerReady hg) (by decide)
  | hdr10Command f => exact .of_ite h fun hg => .acceptCommand f (parserReady_of_headerReady hg)
  | hdr10Oversized c f => exact .of_ite h fun hg => .rejectCount _ (parserReady_of_headerReady hg)
  | ev6 => exact .of_ite h fun hg => .acceptRecord _ (parserReady_of_recordReady hg)
  | ev8 => exact .of_ite h fun hg => .acceptRecord _ (parserReady_of_recordReady hg)
  | cmdCycleMode => exact .of_ite h fun hg => .acceptCommandRecord _ _ hg
  | cmdSetVoiceMask => exact .of_ite h fun hg => .acceptCommandRecord _ _ hg
  | cmdSetFilter => exact .of_ite h fun hg => .acceptCommandRecord _ _ hg
  | cmdUnknown => exact .of_ite h fun hg => .acceptCommandRecord _ _ hg
  | readyLine =>
    cases hfmt
    exact absurd rfl hready
  | _ => cases hfmt

/-- So does the unit the parser fetches. -/
theorem unitResult_of_fetchUnit {s t : State} {i : Instr} (hf : fetchUnit s = some i) (h : exec i s = .next t) :
    UnitResult s t := by
  unfold fetchUnit at hf
  split_ifs at hf
  split at hf
  · rename_i hd
    cases hf
    exact unitResult_of_exec (format_of_decode hd) (parserFormat_ne_ready s) h
  · cases hf

/-! ### Any turn -/

/-- A turn with an operation leaves one of the results listed. -/
theorem turnResult_of_exec {c : Choice} {s t : State} {i : Instr} (hi : turnInstr c s = some i) (h : exec i s = .next t) :
    TurnResult s c t := by
  cases c with
  | parse => exact .unit (unitResult_of_fetchUnit hi h)
  | attach =>
    cases hi
    cases h
    split
    · exact .attach ‹_›
    · exact .waits _ _ rfl
  | detach =>
    cases hi
    cases h
    split
    · exact .waits _ _ rfl
    · exact .detach ‹_›
  | txReadyByte => cases hi; cases h; exact .sendReady _ 1
  | readyLine =>
    cases hi
    have ht : txReadyBytes 14 s = t := Host.Outcome.next.inj h
    exact ht ▸ .sendReady _ 14
  | pull =>
    cases hi
    change execPull s = _ at h
    unfold execPull at h
    split at h
    · cases h; exact .waits _ _ rfl
    · cases h
      split
      · exact .pull _ _ ‹_›
      · exact .waits _ _ rfl
  | pumpAcquire => cases hi; cases h; exact .pumpAcquire
  | pumpRender => cases hi; cases h; exact .pumpRender
  | pumpCommit => cases hi; cases h; exact .pumpCommit
  | sinkFree => cases hi; cases h; exact .sinkFree
  | queueEvent => cases hi; cases h; exact .queueEvent _ _ _ _ _
  | renderSample => cases hi; cases h; exact .renderSample _
  | getMonitor => cases hi; cases h; exact .getMonitor _
  | getQueueDepth | getDroppedEventCount | peek | depth => cases hi; cases h; exact .answers _ _
  | hostSend | hostTxReady | hostFlushRx | setMockOut => cases hi

/-- What a step can do (R302): the configuration is admissible, and the next turn leaves one of its results. -/
theorem step_cases {s t : State} (h : step s = .next t) :
    s.cfg.valid = true ∧ TurnResult (nextTurn s).2 (nextTurn s).1 t := by
  unfold step at h
  split_ifs at h with hv
  refine ⟨hv, ?_⟩
  split at h
  · exact turnResult_of_exec ‹_› h
  · cases h
    exact .environment _

/-- Taking the next turn touches the schedule and the counter of free choices only (R360). -/
theorem nextTurn_eq (s : State) :
    (nextTurn s).2 = { s with sched := (nextTurn s).2.sched, draws := (nextTurn s).2.draws } := by
  unfold nextTurn
  split <;> rfl

/-- The environment's turns write the transport and the mock's outputs only (R106, R131, R278). -/
@[simp] theorem environment_frame (c : Choice) (s : State) :
    (environment c s).cfg = s.cfg ∧ (environment c s).sess = s.sess ∧ (environment c s).txIdx = s.txIdx ∧
    (environment c s).parser = s.parser ∧ (environment c s).queue = s.queue ∧ (environment c s).engine = s.engine ∧
    (environment c s).paused = s.paused ∧ (environment c s).pump = s.pump ∧ (environment c s).tel = s.tel ∧
    (environment c s).recent = s.recent ∧ (environment c s).cellA.trace = s.cellA.trace ∧
    (environment c s).cellB.trace = s.cellB.trace ∧ (environment c s).pool = s.pool ∧
    (environment c s).usb.tx = s.usb.tx ∧ (environment c s).status = s.status := by
  cases c with
  | hostFlushRx =>
    unfold environment
    dsimp only
    split <;> simp
  | setMockOut k out => cases k <;> simp [environment, setMockOut]
  | _ => simp [environment]

end Sys2Proof.Proofs
end

section
/-!
PROOFS. Every step keeps the state invariant (spec/10_state.md R48; spec/46_flow_control.md R249): what each operation leaves of
its parser part and of its queue side, and the case analysis over what a step can do.
-/

namespace Sys2Proof.Proofs

open Sys2Proof.Machine Sys2Proof.Laws

/-! ### Ways to reassemble the invariant -/

theorem fsHz_pos_of_valid {c : Config} (h : c.valid = true) : 0 < c.fsHz := by
  obtain ⟨-, -, -, -, -, -, hfs, -, -⟩ := valid_bounds h
  exact hfs

/-- The invariant does not see the schedule. -/
theorem inv_nextTurn {s : State} (h : Inv s) : Inv (nextTurn s).2 := by
  rw [nextTurn_eq]
  exact Inv_congr h rfl rfl rfl rfl rfl rfl rfl rfl rfl rfl rfl

/-- An operation that leaves residual, pump, recent bytes and audio alone keeps the invariant when it keeps the queue's, the
parser's and the session's part of it. -/
theorem inv_of_parts {s t : State} (h : Inv s) (hq : QueueSide t) (hp : ParserOk t) (hs : SessionOk t)
    (hc : t.cfg = s.cfg) (ha : t.engine.acc = s.engine.acc) (hu : t.pump = s.pump) (hr : t.recent = s.recent)
    (hd : t.pool.audio = s.pool.audio) : Inv t :=
  ⟨by rw [hc]; exact h.valid, hq.regs, hp, hs,
    ⟨by rw [ha, hc]; exact h.clock.acc_lt, hq.flow, by rw [hu]; exact h.clock.pump_idle,
      by rw [hu, hc]; exact h.clock.pump_idx, by rw [hr, hc]; exact h.clock.recent_wr⟩,
    ⟨hq.ring_wf, by rw [hr]; exact h.memory.recent_wf, by rw [hd]; exact h.memory.audio_wf, hq.ring_lt,
      by rw [hr, hc]; exact h.memory.recent_lt⟩⟩

/-- While scanning, the parser's part asks for a bounded buffer only (R48). -/
theorem parserOk_of_scanning {t : State} (hp : t.parser.pstate = .scanMagic) (hb : t.parser.buf.length ≤ t.cfg.bufSize) :
    ParserOk t :=
  ⟨hb, fun h => absurd (hp.symm.trans h) (by decide), fun h => absurd (hp.symm.trans h) (by decide),
    fun h => absurd (hp.symm.trans h) (by decide)⟩

/-- Bytes taken from the front leave the buffer within its bound (R61). -/
theorem length_drop_le {s : State} (h : Inv s) (n : Nat) : (s.parser.buf.drop n).length ≤ s.cfg.bufSize := by
  have := h.parser.buf_le
  simp only [List.length_drop]
  omega

/-- An empty queue at index 0 over the ring of an agreeing state agrees too (R186). -/
theorem queueSide_of_emptied {s t : State} (h : QueueSide s) (hc : t.cfg = s.cfg) (hr : t.queue.ring = s.queue.ring)
    (hh : t.queue.head = 0) (ht : t.queue.tail = 0) (hn : t.queue.count = 0) (hk : t.tel.queuePeak ≤ s.cfg.queueCap) :
    QueueSide t := by
  have hlow := h.low
  have hhead := h.regs.head_lt
  refine ⟨by rw [hc]; exact h.low, ⟨?_, ?_, ?_, by rw [hc]; exact hk, ?_⟩, by rw [hr]; exact h.ring_wf,
    by rw [hr, hc]; exact h.ring_lt, ?_⟩
  · omega
  · rw [hh, hc]; omega
  · rw [ht, hh, hn, Nat.add_zero, Nat.zero_mod]
  · intro j hj
    omega
  · intro _
    rw [hn, hc]
    omega

/-! ### The units from the host -/

/-- A header of no event is a frame of its own, and scanning resumes (R205). -/
theorem acceptEvents_pstate_of_zero (f : Word32) (s : State) : (acceptEvents 0 f s).parser.pstate = .scanMagic := by
  simp [acceptEvents]

/-- A header with events to come leaves the parser waiting for the first of them (R205, R209). -/
theorem acceptEvents_parser_of_ne {c : Word32} (f : Word32) (s : State) (hc : c ≠ 0) :
    (acceptEvents c f s).parser =
      { s.parser with
        pstate := .readEvents, buf := s.parser.buf.drop s.cfg.hdr.len, curCount := c, curFrame := f, frameEvents := 0
        frameBytes := BitVec.ofNat 32 s.cfg.hdr.len, evLeft := c.toNat } := by
  unfold acceptEvents
  rw [if_neg hc]
  simp

/-- The last record of a frame ends it, and scanning resumes (R206). -/
theorem acceptRecord_pstate_of_last (e : Event) {s : State} (h : s.parser.evLeft - 1 = 0) :
    (acceptRecord e s).parser.pstate = .scanMagic := by
  unfold acceptRecord
  dsimp only
  rw [if_pos (by simpa using h)]
  simp

/-- A record that is not the last leaves one less to come and one more done (R206). -/
theorem acceptRecord_parser_of_more (e : Event) {s : State} (h : s.parser.evLeft - 1 ≠ 0) :
    (acceptRecord e s).parser =
      { s.parser with
        buf := s.parser.buf.drop s.cfg.rcd.len, evLeft := s.parser.evLeft - 1, frameEvents := s.parser.frameEvents + 1
        frameBytes := s.parser.frameBytes + BitVec.ofNat 32 s.cfg.rcd.len } := by
  unfold acceptRecord
  dsimp only
  rw [if_neg (by simpa using h)]
  simp

/-- A record pushes its event: the queue and the flow flag are those of `push` (R206). -/
theorem acceptRecord_queue (e : Event) (s : State) :
    (acceptRecord e s).queue = (push e (dropFront s.cfg.rcd.len s)).queue ∧
    (acceptRecord e s).paused = (push e (dropFront s.cfg.rcd.len s)).paused ∧
    (acceptRecord e s).tel.queuePeak = (push e (dropFront s.cfg.rcd.len s)).tel.queuePeak := by
  unfold acceptRecord
  dsimp only
  split <;> simp [frameDone_queuePeak]

theorem acceptEvents_queuePeak (c f : Word32) (s : State) : (acceptEvents c f s).tel.queuePeak = s.tel.queuePeak := by
  unfold acceptEvents
  dsimp only
  split <;> simp [frameDone_queuePeak]

theorem acceptCommandRecord_queuePeak (op p0 : Byte) (s : State) :
    (acceptCommandRecord op p0 s).tel.queuePeak = s.tel.queuePeak := by
  simp [acceptCommandRecord, frameDone_queuePeak]

/-- An accepted event header keeps the parser's part of the invariant (R48 item 4). -/
theorem parserOk_acceptEvents {s : State} {c : Word32} (f : Word32) (h : Inv s) (hc : c.toNat ≤ maxCount) :
    ParserOk (acceptEvents c f s) := by
  have hb : (acceptEvents c f s).parser.buf.length ≤ (acceptEvents c f s).cfg.bufSize := by
    rw [acceptEvents_buf, (acceptEvents_frame c f s).1]
    exact length_drop_le h _
  by_cases h0 : c = 0
  · subst h0
    exact parserOk_of_scanning (acceptEvents_pstate_of_zero f s) hb
  · have hpos : c.toNat ≠ 0 := fun e => h0 (BitVec.eq_of_toNat_eq e)
    refine ⟨hb, ?_, ?_, ?_⟩ <;> rw [acceptEvents_parser_of_ne f s h0] <;> intro hq
    · exact ⟨Nat.pos_of_ne_zero hpos, hc, rfl, hc⟩
    · cases hq
    · cases hq

/-- An accepted record keeps the parser's part of the invariant: what is left and what is done
still make the count (R48 item 4). -/
theorem parserOk_acceptRecord {s : State} (e : Event) (h : Inv s) (hp : s.parser.pstate = .readEvents) :
    ParserOk (acceptRecord e s) := by
  have hb : (acceptRecord e s).parser.buf.length ≤ (acceptRecord e s).cfg.bufSize := by
    rw [acceptRecord_buf, (acceptRecord_frame e s).1]
    exact length_drop_le h _
  obtain ⟨hleft, hmax, hsum, hcount⟩ := h.parser.events hp
  by_cases hl : s.parser.evLeft - 1 = 0
  · exact parserOk_of_scanning (acceptRecord_pstate_of_last e hl) hb
  · refine ⟨hb, ?_, ?_, ?_⟩ <;> rw [acceptRecord_parser_of_more e hl] <;> intro hq
    · refine ⟨?_, ?_, ?_, hcount⟩ <;> dsimp only <;> omega
    · exact absurd (hp.symm.trans hq) (by decide)
    · exact absurd (hp.symm.trans hq) (by decide)

/-- An accepted command header keeps the parser's part of the invariant (R48 item 5). -/
theorem parserOk_acceptCommand {s : State} (f : Word32) (h : Inv s) : ParserOk (acceptCommand f s) := by
  have hparser : (acceptCommand f s).parser =
      { s.parser with
        pstate := .readCommand, buf := s.parser.buf.drop s.cfg.hdr.len, curCount := 0xFFFF, curFrame := f
        frameEvents := 0, frameBytes := BitVec.ofNat 32 s.cfg.hdr.len, evLeft := 0 } := by
    simp [acceptCommand]
  refine ⟨?_, ?_, ?_, ?_⟩ <;> rw [hparser]
  · rw [(acceptCommand_frame f s).1]
    exact length_drop_le h _
  · intro hq
    cases hq
  · exact fun _ => rfl
  · intro hq
    cases hq

/-- What no unit from the host writes: the straps, the session, the residual, the pump, the recent bytes, the pool and the
transport (R81). -/
theorem unitResult_frame {s t : State} (h : UnitResult s t) :
    t.cfg = s.cfg ∧ t.sess = s.sess ∧ t.txIdx = s.txIdx ∧ t.engine.acc = s.engine.acc ∧ t.pump = s.pump ∧
    t.recent = s.recent ∧ t.pool = s.pool ∧ t.usb = s.usb := by
  cases h with
  | acceptCommandRecord op p0 hg => simp [acceptCommandRecord]
  | _ => simp

/-- A unit from the host is executed while a session streams only (R200). -/
theorem unitResult_streaming {s t : State} (h : UnitResult s t) : t = s ∨ s.sess = .streaming := by
  cases h with
  | waits => exact .inl rfl
  | loseMagic b hstr => exact .inr hstr
  | scanMatch hg | rejectCount c hg | acceptCommand f hg | acceptEvents c f hg hc | acceptRecord e hg
  | acceptCommandRecord op p0 hg => exact .inr ((parserReady_iff _ _).1 hg).1

/-- A unit from the host keeps the queue's part of the invariant: only a record touches the queue (R206). -/
theorem queueSide_unitResult {s t : State} (h : Inv s) (hr : UnitResult s t) : QueueSide t := by
  have side := Inv_queueSide h
  cases hr with
  | waits => exact side
  | scanMatch => exact queueSide_congr side rfl rfl rfl rfl
  | loseMagic => exact queueSide_congr side rfl rfl rfl rfl
  | rejectCount => exact queueSide_congr side rfl rfl rfl rfl
  | acceptCommand => exact queueSide_congr side rfl rfl rfl rfl
  | acceptEvents c f => exact queueSide_congr side (by simp) (by simp) (by simp) (acceptEvents_queuePeak c f s)
  | acceptRecord e =>
    obtain ⟨hq, hf, hk⟩ := acceptRecord_queue e s
    have dropped : QueueSide (dropFront s.cfg.rcd.len s) := queueSide_congr side rfl rfl rfl rfl
    exact queueSide_congr (queueSide_push e _ dropped (valid_bounds h.valid).1) hq (by simp) hf hk
  | acceptCommandRecord op p0 =>
    exact queueSide_congr side (by simp) (by simp) (by simp) (acceptCommandRecord_queuePeak op p0 s)

/-- A unit from the host keeps the parser's part of the invariant (R48 items 3 to 6). -/
theorem parserOk_unitResult {s t : State} (h : Inv s) (hr : UnitResult s t) : ParserOk t := by
  cases hr with
  | waits => exact h.parser
  | scanMatch hg =>
    obtain ⟨-, -, hneed⟩ := (parserReady_iff _ _).1 hg
    refine ⟨h.parser.buf_le, ?_, ?_, fun _ => hneed⟩ <;> intro hq <;> cases hq
  | loseMagic b => exact parserOk_of_scanning rfl (length_drop_le h 1)
  | rejectCount c => exact parserOk_of_scanning rfl (length_drop_le h 1)
  | acceptCommand f => exact parserOk_acceptCommand f h
  | acceptEvents c f _ hc => exact parserOk_acceptEvents f h hc
  | acceptRecord e hg => exact parserOk_acceptRecord e h ((parserReady_iff _ _).1 hg).2.1
  | acceptCommandRecord op p0 =>
    refine parserOk_of_scanning (by simp [acceptCommandRecord]) ?_
    rw [acceptCommandRecord_buf, (acceptCommandRecord_frame op p0 s).1]
    exact length_drop_le h 4

/-- Every unit from the host keeps the invariant. -/
theorem inv_unitResult {s t : State} (h : Inv s) (hr : UnitResult s t) : Inv t := by
  obtain ⟨hc, hs, -, ha, hu, hrec, hpool, -⟩ := unitResult_frame hr
  rcases unitResult_streaming hr with rfl | hstr
  · exact h
  · exact inv_of_parts h (queueSide_unitResult h hr) (parserOk_unitResult h hr) (sessionOk_streaming (hs.trans hstr))
      hc ha hu hrec (by rw [hpool])

/-! ### The other turns -/

/-- ATTACH keeps the invariant: queue, parser and residual are cleared (R271). -/
theorem inv_attachSession {s : State} (h : Inv s) : Inv (attachSession s) := by
  have hside : QueueSide (attachSession s) := by
    refine queueSide_of_emptied (Inv_queueSide h) ?_ ?_ ?_ ?_ ?_ ?_ <;> simp [attachSession, engineReset]
  have hparser : (attachSession s).parser = {} := by simp [attachSession]
  have hacc : (attachSession s).engine.acc = 0 := by simp [attachSession, engineReset]
  have hfs : 0 < s.cfg.fsHz := (fsHz_pos_of_valid h.valid)
  refine Inv_of ?_ hside (parserOk_of_scanning ?_ ?_) ⟨fun _ => ?_, fun _ => ?_⟩ ?_ ?_ ?_ ?_ ?_ ?_ ?_
  · simpa using h.valid
  · rw [hparser]
  · simp [hparser]
  · simp [hparser]
  · simp [attachSession]
  · simpa [hacc] using hfs
  · simpa using h.clock.pump_idle
  · simpa using h.clock.pump_idx
  · simpa using h.clock.recent_wr
  · simpa using h.memory.recent_wf
  · simpa using h.memory.audio_wf
  · simpa using h.memory.recent_lt

/-- DETACH keeps the invariant: queue and parser are cleared (R273). -/
theorem inv_detachSession {s : State} (h : Inv s) : Inv (detachSession s) := by
  have hparser : (detachSession s).parser = {} := by simp [detachSession]
  have hsess : (detachSession s).sess = .disconnected := by simp [detachSession]
  refine inv_of_parts h (queueSide_of_emptied (Inv_queueSide h) ?_ ?_ ?_ ?_ ?_ ?_) (parserOk_of_scanning ?_ ?_)
    ⟨fun _ => ?_, fun hw => ?_⟩ ?_ ?_ ?_ ?_ ?_
  case refine_6 => simpa using h.queue.peak_le
  case refine_10 => rw [hsess] at hw; cases hw
  all_goals simp [detachSession]

/-- TX_READY_BYTE keeps the session's part of the invariant: the line is done when streaming begins (R23, R272). -/
theorem sessionOk_txReadyByte {s : State} (h : SessionOk s) : SessionOk (txReadyByte s) := by
  unfold txReadyByte
  split
  · rename_i hg
    simp only [Bool.and_eq_true, decide_eq_true_eq] at hg
    have hidx := h.handshake hg.1
    dsimp only
    split
    · exact sessionOk_streaming rfl
    · exact ⟨fun _ => h.idle (by rw [hg.1]; decide), fun _ => by dsimp only; omega⟩
  · exact h

/-- So do several of them. -/
theorem sessionOk_txReadyBytes (n : Nat) {s : State} (h : SessionOk s) : SessionOk (txReadyBytes n s) := by
  induction n generalizing s with
  | zero => exact h
  | succ n ih => exact ih (sessionOk_txReadyByte h)

/-- Sending the READY line keeps the invariant (R272). -/
theorem inv_txReadyBytes (n : Nat) {s : State} (h : Inv s) : Inv (txReadyBytes n s) :=
  inv_of_parts h (queueSide_congr (Inv_queueSide h) (by simp) (by simp) (by simp) (by simp))
    (parserOk_congr h.parser (by simp) (by simp)) (sessionOk_txReadyBytes n h.session) (by simp) (by simp) (by simp)
    (by simp) (by simp)

/-- PULL touches no parser register but the buffer, which keeps at least the half it does not discard (R201, R202). -/
theorem pullByte_parser (b : Byte) (rest : List Byte) (s : State) :
    ∃ buf, (pullByte b rest s).parser = { s.parser with buf := buf ++ [b] } ∧
      (s.parser.buf.length ≠ s.cfg.bufSize → buf = s.parser.buf) ∧
      (s.parser.buf.length = s.cfg.bufSize → buf = s.parser.buf.drop (s.cfg.bufSize / 2)) ∧
      (pullByte b rest s).tel.queuePeak = s.tel.queuePeak := by
  by_cases hfull : s.parser.buf.length = s.cfg.bufSize
  · obtain ⟨hp, ht, -⟩ := pullByte_of_full b rest hfull
    exact ⟨_, hp, fun hne => absurd hfull hne, fun _ => rfl, by rw [ht]⟩
  · obtain ⟨hp, ht, -⟩ := pullByte_of_room b rest hfull
    exact ⟨_, hp, fun _ => rfl, fun he => absurd he hfull, by rw [ht]⟩

/-- PULL keeps the invariant: half a buffer of 12 bytes or more still holds the magic (R48 item 6, R201, R336). -/
theorem inv_pullByte (b : Byte) (rest : List Byte) {s : State} (h : Inv s) (ha : pullAllowed s = true) :
    Inv (pullByte b rest s) := by
  obtain ⟨buf, hparser, hroom, hfull, hpeak⟩ := pullByte_parser b rest s
  obtain ⟨hstr, -, -⟩ := (pullAllowed_iff s).1 ha
  obtain ⟨-, hB, hK, -⟩ := valid_bounds h.valid
  have hle := h.parser.buf_le
  have hlen : buf.length < s.cfg.bufSize ∧ (4 ≤ s.parser.buf.length → 4 ≤ buf.length) := by
    by_cases he : s.parser.buf.length = s.cfg.bufSize
    · rw [hfull he, List.length_drop]; omega
    · rw [hroom he]; omega
  refine Inv_of ?_ (queueSide_congr (Inv_queueSide h) (by simp) (by simp) (by simp) hpeak) ⟨?_, ?_, ?_, ?_⟩
    (sessionOk_streaming (by simpa using hstr)) ?_ ?_ ?_ ?_ ?_ ?_ ?_
  · simpa using h.valid
  · simp [hparser]; omega
  · simpa [hparser] using h.parser.events
  · simpa [hparser] using h.parser.command
  · rw [hparser]
    intro hp
    have := h.parser.header hp
    simp
    omega
  · simpa using h.clock.acc_lt
  · simpa using h.clock.pump_idle
  · simpa using h.clock.pump_idx
  · simpa using Nat.mod_lt _ hK
  · simpa using wf_memWrite _ _ _ h.memory.recent_wf
  · simpa using h.memory.audio_wf
  · simpa using lt_memWrite _ _ h.clock.recent_wr h.memory.recent_lt

/-- The residual after a sample (R137). -/
theorem renderSample_acc (s : State) : (renderSample s).engine.acc = nextAcc s.cfg s.engine.acc := by
  obtain ⟨_, _, -, -, -, -, -, -, -, heng, -⟩ := advanceSample_spec s
  simp [renderSample, heng]

/-- A sample keeps the invariant (R48 items 7 and 8, R249). -/
theorem inv_renderSample {s : State} (h : Inv s) : Inv (renderSample s) := by
  refine Inv_of ?_ (queueSide_renderSample s (Inv_queueSide h)) (parserOk_congr h.parser (by simp) (by simp))
    (sessionOk_congr h.session (by simp) (by simp) (by simp)) ?_ ?_ ?_ ?_ ?_ ?_ ?_
  · simpa using h.valid
  · rw [renderSample_acc, (renderSample_frame s).1]
    exact nextAcc_lt _ _ (fsHz_pos_of_valid h.valid)
  · simpa using h.clock.pump_idle
  · simpa using h.clock.pump_idx
  · simpa using h.clock.recent_wr
  · simpa using h.memory.recent_wf
  · simpa using h.memory.audio_wf
  · simpa using h.memory.recent_lt

/-- Writing a frame and moving the pump keeps the invariant, if the pump's index stays in its range (R36). -/
theorem inv_withPool {s t : State} {p : Pump} {q : Pool} (h : Inv s) (ht : t = { s with pump := p, pool := q })
    (hidle : p.active = false → p.idx = 0) (hidx : p.idx ≤ s.cfg.frames) (hwf : Memory.wf q.audio) : Inv t := by
  subst ht
  exact Inv_of h.valid (queueSide_congr (Inv_queueSide h) rfl rfl rfl rfl) (parserOk_congr h.parser rfl rfl)
    (sessionOk_congr h.session rfl rfl rfl) h.clock.acc_lt hidle hidx h.clock.recent_wr h.memory.recent_wf hwf
    h.memory.recent_lt

/-! ### The pump and the sink -/

/-- PUMP_ACQUIRE waits, reports that no buffer is FREE, or takes the lowest FREE one (R166). -/
theorem pumpAcquire_cases (s : State) :
    pumpAcquire s = s ∨ pumpAcquire s = raise .noFreeBuffer s ∨
    ∃ b, s.pump.active = false ∧ firstFree s.pool.buffers = some b ∧
      pumpAcquire s = { s with
        pump := { active := true, buf := b, idx := 0 }
        pool := { s.pool with buffers := s.pool.buffers.modify b fun x => { x with cond := .taken } } } := by
  unfold pumpAcquire
  split
  · exact .inl rfl
  · rename_i hactive
    split
    · exact .inr (.inl rfl)
    · rename_i b hfree
      exact .inr (.inr ⟨b, by simpa using hactive, hfree, rfl⟩)

/-- PUMP_RENDER waits, or puts the frame of a sample at the pump's place (R167). -/
theorem pumpRender_cases (s : State) :
    pumpRender s = s ∨
    s.pump.active = true ∧ s.pump.idx < s.cfg.frames ∧
      pumpRender s = { renderSample s with
        pump := { s.pump with idx := s.pump.idx + 1 }
        pool := { s.pool with
          audio := memWrite s.pool.audio (audioAddr s.cfg s.pump.buf s.pump.idx) (sampleFrame s) } } := by
  unfold pumpRender
  split
  · rename_i hg
    simp only [Bool.and_eq_true, decide_eq_true_eq] at hg
    exact .inr ⟨hg.1, hg.2, by simp⟩
  · exact .inl rfl

/-- PUMP_COMMIT waits, or makes the pump's buffer FULL with its frames counted and queues it for the sink (R168). -/
theorem pumpCommit_cases (s : State) :
    pumpCommit s = s ∨
    s.pump.active = true ∧ s.pump.idx = s.cfg.frames ∧
      pumpCommit s = { s with
        pump := { s.pump with active := false, idx := 0 }
        pool := { s.pool with
          buffers := s.pool.buffers.modify s.pump.buf fun _ => { cond := .full, sampleCount := s.cfg.frames }
          full := s.pool.full ++ [s.pump.buf] } } := by
  unfold pumpCommit
  split
  · rename_i hg
    simp only [Bool.and_eq_true, decide_eq_true_eq] at hg
    refine .inr ⟨hg.1, hg.2, ?_⟩
    simp only [giveFull, setBuffer, List.modify_modify_eq]
    rfl
  · exact .inl rfl

/-- The sink waits, or outputs the oldest FULL buffer and frees it (R172). -/
theorem sinkFree_cases (s : State) :
    sinkFree s = s ∨
    ∃ b rest, s.pool.full = b :: rest ∧
      sinkFree s = { s with
        pool := { s.pool with
          buffers := s.pool.buffers.modify b fun x => { x with cond := .free }
          full := rest, played := s.pool.played ++ bufferFrames s b } } := by
  unfold sinkFree
  split
  · exact .inl rfl
  · rename_i b rest hfull
    exact .inr ⟨b, rest, hfull, rfl⟩

theorem inv_pumpAcquire {s : State} (h : Inv s) : Inv (pumpAcquire s) := by
  rcases pumpAcquire_cases s with e | e | ⟨b, -, -, e⟩
  · rw [e]
    exact h
  · rw [e]
    exact Inv_congr h rfl rfl rfl rfl rfl rfl rfl rfl rfl rfl rfl
  · exact inv_withPool h e (by simp) (Nat.zero_le _) h.memory.audio_wf

theorem inv_pumpRender {s : State} (h : Inv s) : Inv (pumpRender s) := by
  rcases pumpRender_cases s with e | ⟨hactive, hidx, e⟩
  · rw [e]
    exact h
  · refine inv_withPool (inv_renderSample h) e (fun hn => ?_) ?_ (wf_memWrite _ _ _ h.memory.audio_wf)
    · rw [hactive] at hn; cases hn
    · simpa using hidx

theorem inv_pumpCommit {s : State} (h : Inv s) : Inv (pumpCommit s) := by
  rcases pumpCommit_cases s with e | ⟨-, -, e⟩
  · rw [e]
    exact h
  · exact inv_withPool h e (fun _ => rfl) (Nat.zero_le _) h.memory.audio_wf

theorem inv_sinkFree {s : State} (h : Inv s) : Inv (sinkFree s) := by
  rcases sinkFree_cases s with e | ⟨b, rest, -, e⟩
  · rw [e]
    exact h
  · exact inv_withPool h e h.clock.pump_idle h.clock.pump_idx h.memory.audio_wf

/-! ### A step -/

/-- Answering keeps the invariant. -/
theorem inv_answer (r : PortValue) {s : State} (h : Inv s) : Inv (answer r s) :=
  Inv_congr h rfl rfl rfl rfl rfl rfl rfl rfl rfl rfl rfl

/-- A push keeps the invariant (R181). -/
theorem inv_push (e : Event) {s : State} (h : Inv s) : Inv (push e s) :=
  inv_of_parts h (queueSide_push e s (Inv_queueSide h) (valid_bounds h.valid).1)
    (parserOk_congr h.parser (by simp) (by simp)) (sessionOk_congr h.session (by simp) (by simp) (by simp)) (by simp)
    (by simp) (by simp) (by simp) (by simp)

/-- Whatever a turn leaves of an invariant state is one. -/
theorem inv_turnResult {c : Choice} {s t : State} (h : Inv s) (hr : TurnResult s c t) : Inv t := by
  cases hr with
  | unit hu => exact inv_unitResult h hu
  | attach => exact inv_attachSession h
  | detach => exact inv_detachSession h
  | sendReady _ n => exact inv_txReadyBytes n h
  | pull b rest ha => exact inv_pullByte b rest h ha
  | pumpAcquire => exact inv_pumpAcquire h
  | pumpRender => exact inv_pumpRender h
  | pumpCommit => exact inv_pumpCommit h
  | sinkFree => exact inv_sinkFree h
  | queueEvent m a v d r => exact inv_answer r (inv_push _ h)
  | renderSample r => exact inv_answer r (inv_renderSample h)
  | getMonitor r => exact inv_answer r (Inv_congr h rfl rfl rfl rfl rfl rfl rfl rfl rfl rfl rfl)
  | answers _ r => exact inv_answer r h
  | environment c => apply Inv_congr h <;> simp

/-- Settles O52, by the cases of what a step can do. -/
theorem stepKeepsInv : Obligations.StepKeepsInv := by
  intro s t h hstep
  exact inv_turnResult (inv_nextTurn h) (step_cases hstep).2

end Sys2Proof.Proofs
end

section
/-!
PROOFS. Every step keeps the pool's discipline (spec/10_state.md R41, spec/20_memory.md R64, spec/42_sample_pump.md R165 to R172):
the conditions of the buffers as the pump and the sink move them, and the case analysis over what a step can do.
-/

namespace Sys2Proof.Proofs

open Sys2Proof.Machine Sys2Proof.Laws

/-- The condition of buffer `b`, where the pool has it (R41). -/
def condIn (bs : List Buffer) (b : Nat) : Option BufCond := (bs[b]?).map Buffer.cond

theorem bufferTaken_iff (s : State) (b : Nat) : bufferTaken s b = true ↔ condIn s.pool.buffers b = some .taken := by
  unfold bufferTaken condIn
  cases s.pool.buffers[b]? <;> simp

theorem any_full_iff (bs : List Buffer) (b : Nat) :
    (bs[b]?).any (fun x => x.cond = .full) = true ↔ condIn bs b = some .full := by
  unfold condIn
  cases bs[b]? <;> simp

theorem condIn_of_firstFree {bs : List Buffer} {b : Nat} (h : firstFree bs = some b) : condIn bs b = some .free := by
  obtain ⟨x, hx, hfree⟩ := firstFree_free bs b h
  simp [condIn, hx, hfree]

/-- Changing a buffer that is there gives it its new condition. -/
theorem condIn_modify_same {bs : List Buffer} {b : Nat} {f : Buffer → Buffer} {c c' : BufCond} (h : condIn bs b = some c)
    (hf : ∀ x, (f x).cond = c') : condIn (bs.modify b f) b = some c' := by
  unfold condIn at h ⊢
  cases hx : bs[b]? with
  | none => rw [hx] at h; cases h
  | some x => simp [hx, hf]

/-- Changing a buffer leaves the others. -/
theorem getElem?_modify_other {bs : List Buffer} {b k : Nat} (f : Buffer → Buffer) (h : k ≠ b) :
    (bs.modify b f)[k]? = bs[k]? :=
  List.getElem?_modify_ne _ _ (Ne.symm h)

theorem condIn_modify_other {bs : List Buffer} {b k : Nat} (f : Buffer → Buffer) (h : k ≠ b) :
    condIn (bs.modify b f) k = condIn bs k := by
  unfold condIn
  rw [getElem?_modify_other f h]

/-- The pool's discipline depends on the straps, the pump and the pool only (R41). -/
theorem poolOk_congr {s t : State} (h : PoolOk s) (hc : t.cfg = s.cfg) (hu : t.pump = s.pump) (hp : t.pool = s.pool) :
    PoolOk t := by
  refine ⟨?_, ?_, ?_, ?_, ?_, ?_, ?_⟩
  · rw [hp, hc]; exact h.length
  · intro b; rw [hu, bufferTaken_iff, hp, ← bufferTaken_iff]; exact h.taken b
  · rw [hp]; exact h.full
  · rw [hp]; exact h.nodup
  · rw [hp, hc]; exact h.counted
  · rw [hp, hc]; exact h.written
  · rw [hu, hp, hc]; exact h.filling

/-- The pool's discipline, with the conditions of the buffers read by `condIn` (R41, R64, R171). -/
theorem poolOk_of_condIn {t : State} (hlen : t.pool.buffers.length = t.cfg.nbuf)
    (htaken : ∀ b, condIn t.pool.buffers b = some .taken ↔ t.pump.active = true ∧ b = t.pump.buf)
    (hfull : ∀ b, b ∈ t.pool.full ↔ condIn t.pool.buffers b = some .full) (hnodup : t.pool.full.Nodup)
    (hcount : ∀ b ∈ t.pool.full, (t.pool.buffers[b]?).map Buffer.sampleCount = some t.cfg.frames)
    (hwritten : ∀ b ∈ t.pool.full, ∀ j, j < t.cfg.frames → (memRead t.pool.audio (audioAddr t.cfg b j)).isSome)
    (hfill : t.pump.active = true → ∀ j, j < t.pump.idx →
      (memRead t.pool.audio (audioAddr t.cfg t.pump.buf j)).isSome) : PoolOk t :=
  ⟨hlen, fun b => (bufferTaken_iff t b).trans (htaken b), fun b => (hfull b).trans (any_full_iff _ b).symm, hnodup, hcount,
    hwritten, hfill⟩

theorem condIn_taken_iff {s : State} (h : PoolOk s) (b : Nat) :
    condIn s.pool.buffers b = some .taken ↔ s.pump.active = true ∧ b = s.pump.buf :=
  (bufferTaken_iff s b).symm.trans (h.taken b)

theorem mem_full_iff {s : State} (h : PoolOk s) (b : Nat) : b ∈ s.pool.full ↔ condIn s.pool.buffers b = some .full :=
  (h.full b).trans (any_full_iff _ b)

/-- PUMP_ACQUIRE keeps the discipline: what it takes was FREE, and nothing is written yet (R166). -/
theorem poolOk_pumpAcquire {s : State} (h : PoolOk s) : PoolOk (pumpAcquire s) := by
  rcases pumpAcquire_cases s with e | e | ⟨b, hidle, hfree, e⟩
  · rw [e]
    exact h
  · rw [e]
    exact poolOk_congr h rfl rfl rfl
  · have hb : condIn s.pool.buffers b = some .free := condIn_of_firstFree hfree
    have hnot : ∀ k ∈ s.pool.full, k ≠ b := by
      rintro k hk rfl
      rw [mem_full_iff h, hb] at hk
      cases hk
    rw [e]
    refine poolOk_of_condIn (by simpa using h.length) (fun k => ?_) (fun k => ?_) h.nodup (fun k hk => ?_) h.written ?_
    · by_cases hk : k = b
      · subst hk
        simp [condIn_modify_same hb]
      · rw [condIn_modify_other _ hk, condIn_taken_iff h]
        simp [hk, hidle]
    · by_cases hk : k = b
      · subst hk
        have hout : k ∉ s.pool.full := fun hk => hnot k hk rfl
        simp [condIn_modify_same hb, hout]
      · rw [condIn_modify_other _ hk, ← mem_full_iff h]
    · rw [getElem?_modify_other _ (hnot k hk)]
      exact h.counted k hk
    · intro _ j hj
      exact absurd hj (Nat.not_lt_zero j)

/-- PUMP_RENDER keeps the discipline: one frame more of the buffer being filled is written (R167). -/
theorem poolOk_pumpRender {s : State} (h : PoolOk s) : PoolOk (pumpRender s) := by
  rcases pumpRender_cases s with e | ⟨-, -, e⟩
  · rw [e]
    exact h
  · have kept : ∀ a, (memRead s.pool.audio a).isSome → (memRead (pumpRender s).pool.audio a).isSome := by
      intro a ha
      rw [e]
      exact isSome_memWrite _ _ _ _ ha
    have hbuffers : (pumpRender s).pool.buffers = s.pool.buffers ∧ (pumpRender s).pool.full = s.pool.full := by
      rw [e]
      exact ⟨rfl, rfl⟩
    have hpump : (pumpRender s).pump = { s.pump with idx := s.pump.idx + 1 } := by rw [e]
    have hcfg : (pumpRender s).cfg = s.cfg := by simp
    obtain ⟨hb, hf⟩ := hbuffers
    apply poolOk_of_condIn <;> simp only [hb, hf, hcfg, hpump]
    · exact h.length
    · exact condIn_taken_iff h
    · exact mem_full_iff h
    · exact h.nodup
    · exact h.counted
    · exact fun b hbf j hj => kept _ (h.written b hbf j hj)
    · intro ha j hj
      by_cases hlast : j = s.pump.idx
      · rw [e, hlast]
        simp
      · exact kept _ (h.filling ha j (by omega))

/-- PUMP_COMMIT keeps the discipline: the buffer it queues has every frame written (R168, R171). -/
theorem poolOk_pumpCommit {s : State} (h : PoolOk s) : PoolOk (pumpCommit s) := by
  rcases pumpCommit_cases s with e | ⟨hactive, hidx, e⟩
  · rw [e]
    exact h
  · have hb : condIn s.pool.buffers s.pump.buf = some .taken := (condIn_taken_iff h _).2 ⟨hactive, rfl⟩
    have hnot : ∀ k ∈ s.pool.full, k ≠ s.pump.buf := by
      rintro k hk rfl
      rw [mem_full_iff h, hb] at hk
      cases hk
    have hcond : ∀ k, condIn (s.pool.buffers.modify s.pump.buf fun _ => { cond := .full, sampleCount := s.cfg.frames }) k =
        if k = s.pump.buf then some .full else condIn s.pool.buffers k := by
      intro k
      split
      · subst k
        exact condIn_modify_same hb fun _ => rfl
      · exact condIn_modify_other _ ‹_›
    rw [e]
    refine poolOk_of_condIn (by simpa using h.length) (fun k => ?_) (fun k => ?_) ?_ (fun k hk => ?_) (fun k hk => ?_) ?_
    · simp only [hcond]
      split
      · simp
      · rw [condIn_taken_iff h]
        simp [*]
    · simp only [hcond, List.mem_append, List.mem_singleton]
      split
      · simp [*]
      · rw [mem_full_iff h]
        simp [*]
    · exact List.Nodup.append h.nodup (List.nodup_singleton _) (by simpa using fun hk => hnot _ hk rfl)
    · rcases List.mem_append.1 hk with hk | hk
      · rw [getElem?_modify_other _ (hnot k hk)]
        exact h.counted k hk
      · obtain rfl := List.mem_singleton.1 hk
        obtain ⟨x, hx, -⟩ := Option.map_eq_some_iff.1 hb
        simp [hx]
    · rcases List.mem_append.1 hk with hk | hk
      · exact h.written k hk
      · obtain rfl := List.mem_singleton.1 hk
        exact fun j hj => h.filling hactive j (by rw [hidx]; exact hj)
    · intro ha
      cases ha

/-- The sink keeps the discipline: the oldest FULL buffer leaves its queue and is FREE (R172). -/
theorem poolOk_sinkFree {s : State} (h : PoolOk s) : PoolOk (sinkFree s) := by
  rcases sinkFree_cases s with e | ⟨b, rest, hfull, e⟩
  · rw [e]
    exact h
  · have hb : condIn s.pool.buffers b = some .full := (mem_full_iff h b).1 (by simp [hfull])
    obtain ⟨hnot, hnodup⟩ := List.nodup_cons.1 (hfull ▸ h.nodup)
    have hother : ∀ k ∈ rest, k ≠ b ∧ k ∈ s.pool.full := by
      intro k hk
      refine ⟨?_, by simp [hfull, hk]⟩
      rintro rfl
      exact hnot hk
    rw [e]
    refine poolOk_of_condIn (by simpa using h.length) (fun k => ?_) (fun k => ?_) hnodup (fun k hk => ?_)
      (fun k hk => h.written k (hother k hk).2) h.filling
    · by_cases hk : k = b
      · subst hk
        rw [← condIn_taken_iff h, hb]
        simp [condIn_modify_same hb]
      · rw [condIn_modify_other _ hk]
        exact condIn_taken_iff h k
    · by_cases hk : k = b
      · subst hk
        simp [condIn_modify_same hb, hnot]
      · rw [condIn_modify_other _ hk, ← mem_full_iff h, hfull]
        simp [hk]
    · obtain ⟨hne, hk⟩ := hother k hk
      rw [getElem?_modify_other _ hne]
      exact h.counted k hk

/-- Whatever a turn leaves of a disciplined pool is one: only the pump and the sink move buffers (R81). -/
theorem poolOk_turnResult {c : Choice} {s t : State} (h : PoolOk s) (hr : TurnResult s c t) : PoolOk t := by
  cases hr with
  | pumpAcquire => exact poolOk_pumpAcquire h
  | pumpRender => exact poolOk_pumpRender h
  | pumpCommit => exact poolOk_pumpCommit h
  | sinkFree => exact poolOk_sinkFree h
  | unit hu =>
    obtain ⟨hc, -, -, -, hpump, -, hpool, -⟩ := unitResult_frame hu
    exact poolOk_congr h hc hpump hpool
  | attach | detach | sendReady | pull | queueEvent | renderSample | getMonitor | answers | environment =>
    apply poolOk_congr h <;> simp

/-- Settles O54, by the cases of what a step can do. -/
theorem stepKeepsPool : Obligations.StepKeepsPool := by
  intro s t _ h hstep
  have hturn : PoolOk (nextTurn s).2 := by
    rw [nextTurn_eq]
    exact poolOk_congr h rfl rfl rfl
  exact poolOk_turnResult hturn (step_cases hstep).2

end Sys2Proof.Proofs
end

section
/-!
PROOFS. What only grows (spec/10_state.md R21; spec/43_event_queue.md R188; spec/47_telemetry.md R260;
spec/70_reset_and_hazards.md R361): the traces of the observation in every step, and the counters in every step but ATTACH. Both
relations are transitive, so an operation made of several is read off part by part.
-/

namespace Sys2Proof.Proofs

open Sys2Proof.Machine Sys2Proof.Laws

/-- From `s` to `t` every trace of the observation only grows (R361). -/
structure TracesGrow (s t : State) : Prop where
  cellA : s.cellA.trace <+: t.cellA.trace
  cellB : s.cellB.trace <+: t.cellB.trace
  tx : s.usb.tx <+: t.usb.tx
  status : s.status <+: t.status
  played : s.pool.played <+: t.pool.played

/-- From `s` to `t` no counter decreases (R188, R260). -/
structure CountersRise (s t : State) : Prop where
  framesTotal : s.tel.framesTotal.toNat ≤ t.tel.framesTotal.toNat
  eventsTotal : s.tel.eventsTotal.toNat ≤ t.tel.eventsTotal.toNat
  bytesTotal : s.tel.bytesTotal.toNat ≤ t.tel.bytesTotal.toNat
  resyncCount : s.tel.resyncCount.toNat ≤ t.tel.resyncCount.toNat
  buffullCount : s.tel.buffullCount.toNat ≤ t.tel.buffullCount.toNat
  queuePeak : s.tel.queuePeak ≤ t.tel.queuePeak
  droppedCount : s.queue.droppedCount.toNat ≤ t.queue.droppedCount.toNat

/-- From `s` to `t` the traces grow and no counter decreases. -/
structure Grows (s t : State) : Prop extends TracesGrow s t, CountersRise s t

theorem TracesGrow.trans {s u t : State} (h : TracesGrow s u) (k : TracesGrow u t) : TracesGrow s t :=
  ⟨h.cellA.trans k.cellA, h.cellB.trans k.cellB, h.tx.trans k.tx, h.status.trans k.status, h.played.trans k.played⟩

theorem CountersRise.trans {s u t : State} (h : CountersRise s u) (k : CountersRise u t) : CountersRise s t :=
  ⟨h.framesTotal.trans k.framesTotal, h.eventsTotal.trans k.eventsTotal, h.bytesTotal.trans k.bytesTotal,
    h.resyncCount.trans k.resyncCount, h.buffullCount.trans k.buffullCount, h.queuePeak.trans k.queuePeak,
    h.droppedCount.trans k.droppedCount⟩

theorem Grows.trans {s u t : State} (h : Grows s u) (k : Grows u t) : Grows s t :=
  ⟨h.toTracesGrow.trans k.toTracesGrow, h.toCountersRise.trans k.toCountersRise⟩

/-- Where telemetry and `dropped_count` stay, no counter decreases. -/
theorem countersRise_of_eq {s t : State} (ht : t.tel = s.tel) (hd : t.queue.droppedCount = s.queue.droppedCount) :
    CountersRise s t := by
  constructor <;> simp [ht, hd]

/-- Growing traces with telemetry and `dropped_count` as they were. -/
theorem grows_of_traces {s t : State} (h : TracesGrow s t) (ht : t.tel = s.tel)
    (hd : t.queue.droppedCount = s.queue.droppedCount) : Grows s t :=
  ⟨h, countersRise_of_eq ht hd⟩

/-- An operation that touches nothing that is observed or counted. -/
theorem grows_of_silent {s t : State} (ha : t.cellA.trace = s.cellA.trace) (hb : t.cellB.trace = s.cellB.trace)
    (hx : t.usb.tx = s.usb.tx) (hs : t.status = s.status) (hp : t.pool.played = s.pool.played) (ht : t.tel = s.tel)
    (hd : t.queue.droppedCount = s.queue.droppedCount) : Grows s t :=
  grows_of_traces (by constructor <;> simp [ha, hb, hx, hs, hp]) ht hd

theorem grows_refl (s : State) : Grows s s := grows_of_silent rfl rfl rfl rfl rfl rfl rfl

/-! ### The operations of the parser -/

/-- Raising an error shows on the status port (R290). -/
theorem grows_raise (e : ErrorEvent) (s : State) : Grows s (raise e s) := by
  refine grows_of_traces ?_ rfl rfl
  constructor <;> simp

/-- `frame_start` shows on the status port (R209). -/
theorem grows_frameStart (c f : Word32) (s : State) : Grows s (frameStart c f s) := by
  refine grows_of_traces ?_ rfl rfl
  constructor <;> simp

/-- `frame_done` reports the frame and counts it (R256). -/
theorem grows_frameDone (s : State) : Grows s (frameDone s) := by
  refine ⟨?_, ?_⟩
  · constructor <;> simp
  · constructor <;> simp [frameDone, accountFrame, driftUpdate, emit, le_capped]

/-- A lost byte is counted (R259). -/
theorem grows_countResync (s : State) : Grows s (countResync s) := by
  refine ⟨?_, ?_⟩ <;> constructor <;> simp [le_capped]

/-- `drop_oldest` reports the event it drops and counts it (R182, R188). -/
theorem grows_dropOldest (s : State) : Grows s (dropOldest s) := by
  obtain ⟨-, -, -, hdropped, hstatus⟩ := dropOldest_regs s
  refine ⟨?_, ?_⟩ <;> constructor <;> simp [hdropped, hstatus, le_capped]

/-- A push raises the peak, and on a full ring drops the oldest event first (R181, R258). -/
theorem grows_push (e : Event) (s : State) : Grows s (push e s) := by
  have stored : ∀ u, Grows u (flowUpdate (storeTail e u)) := by
    intro u
    refine ⟨?_, ?_⟩ <;> constructor <;> simp
  by_cases h : s.queue.count = s.cfg.queueCap
  · rw [push_full e s h]
    exact (grows_dropOldest s).trans (stored _)
  · rw [push_regs e s h]
    exact stored s

/-- A command adds to the cells' traces and counts nothing (R230). -/
theorem grows_controlDispatch (op p0 : Byte) (s : State) : Grows s (controlDispatch op p0 s) := by
  obtain ⟨ha, hb, -, -⟩ := controlDispatch_cells op p0 s
  refine grows_of_traces ⟨ha, hb, ?_, ?_, ?_⟩ ?_ ?_ <;> simp

/-- Writing the parser's registers shows nowhere. -/
theorem grows_withParser (p : Parser) (s : State) : Grows s { s with parser := p } :=
  grows_of_silent rfl rfl rfl rfl rfl rfl rfl

/-- A unit from the host grows traces and counters. -/
theorem grows_unitResult {s t : State} (h : UnitResult s t) : Grows s t := by
  cases h with
  | waits => exact grows_refl s
  | scanMatch => exact grows_withParser _ s
  | loseMagic b =>
    exact (grows_raise (.magicLost b) s).trans ((grows_withParser _ _).trans ((grows_countResync _).trans (grows_withParser _ _)))
  | rejectCount c =>
    exact (grows_raise (.oversizedCount c) s).trans
      ((grows_withParser _ _).trans ((grows_countResync _).trans (grows_withParser _ _)))
  | acceptCommand f => exact (grows_withParser _ s).trans ((grows_frameStart _ f _).trans (grows_withParser _ _))
  | acceptEvents c f =>
    refine (grows_withParser _ s).trans ((grows_frameStart c f (dropFront s.cfg.hdr.len s)).trans ?_)
    unfold acceptEvents
    dsimp only
    split
    · exact (grows_frameDone _).trans (grows_withParser _ _)
    · exact grows_withParser _ _
  | acceptRecord e =>
    refine (grows_withParser _ s).trans ((grows_push e (dropFront s.cfg.rcd.len s)).trans ?_)
    unfold acceptRecord
    dsimp only
    split
    · exact (grows_withParser _ _).trans ((grows_frameDone _).trans (grows_withParser _ _))
    · exact grows_withParser _ _
  | acceptCommandRecord op p0 =>
    exact (grows_withParser _ s).trans ((grows_controlDispatch op p0 (dropFront cmdLen s)).trans
      ((grows_withParser _ _).trans ((grows_frameDone _).trans (grows_withParser _ _))))

/-! ### The other operations -/

/-- A sample leaves `dropped_count`: what it plays is not dropped (R141). -/
theorem renderSample_droppedCount (s : State) : (renderSample s).queue.droppedCount = s.queue.droppedCount :=
  renderSample_induct (P := fun t => t.queue.droppedCount = s.queue.droppedCount) (fun _ _ _ h => by simpa using h)
    (fun _ h _ => h) (fun _ _ h => h) s (by simp)

/-- A sample adds its calls to the cells' traces and reports a forced cycle (R137, R139, R140). -/
theorem grows_renderSample (s : State) : Grows s (renderSample s) := by
  obtain ⟨ka, kb, ha, hb, -, -, -, -, -, -, hstatus⟩ := advanceSample_spec s
  refine grows_of_traces ⟨?_, ?_, ?_, ?_, ?_⟩ (by simp) (renderSample_droppedCount s)
  · simp [renderSample, readOutputs, ha]
  · simp [renderSample, readOutputs, hb]
  · simp
  · simp only [renderSample, readOutputs_frame, hstatus]
    split <;> simp
  · simp

/-- The READY line is appended to `tx` byte by byte (R272). -/
theorem grows_txReadyByte (s : State) : Grows s (txReadyByte s) := by
  have htx : s.usb.tx <+: (txReadyByte s).usb.tx := by
    unfold txReadyByte
    dsimp only
    split_ifs <;> simp
  refine grows_of_traces ⟨?_, ?_, htx, ?_, ?_⟩ ?_ ?_ <;> simp

theorem grows_txReadyBytes (n : Nat) (s : State) : Grows s (txReadyBytes n s) := by
  induction n generalizing s with
  | zero => exact grows_refl s
  | succ n ih => exact (grows_txReadyByte s).trans (ih _)

/-- PULL reports a full buffer and counts it (R202). -/
theorem grows_pullByte (b : Byte) (rest : List Byte) (s : State) : Grows s (pullByte b rest s) := by
  by_cases hfull : s.parser.buf.length = s.cfg.bufSize
  · obtain ⟨-, ht, hs⟩ := pullByte_of_full b rest hfull
    refine ⟨?_, ?_⟩ <;> constructor <;> simp [ht, hs, le_capped]
  · obtain ⟨-, ht, hs⟩ := pullByte_of_room b rest hfull
    apply grows_of_silent <;> simp [ht, hs]

/-- PUMP_ACQUIRE reports a missing buffer at most (R166). -/
theorem grows_pumpAcquire (s : State) : Grows s (pumpAcquire s) := by
  rcases pumpAcquire_cases s with e | e | ⟨b, -, -, e⟩ <;> rw [e]
  · exact grows_refl s
  · exact grows_raise _ s
  · exact grows_of_silent rfl rfl rfl rfl rfl rfl rfl

/-- PUMP_RENDER shows what its sample shows (R167). -/
theorem grows_pumpRender (s : State) : Grows s (pumpRender s) := by
  rcases pumpRender_cases s with e | ⟨-, -, e⟩ <;> rw [e]
  · exact grows_refl s
  · exact (grows_renderSample s).trans (grows_of_silent rfl rfl rfl rfl (by simp) rfl rfl)

/-- PUMP_COMMIT shows nowhere (R168). -/
theorem grows_pumpCommit (s : State) : Grows s (pumpCommit s) := by
  rcases pumpCommit_cases s with e | ⟨-, -, e⟩ <;> rw [e]
  · exact grows_refl s
  · exact grows_of_silent rfl rfl rfl rfl rfl rfl rfl

/-- The sink's frames are appended to those already output (R172). -/
theorem grows_sinkFree (s : State) : Grows s (sinkFree s) := by
  rcases sinkFree_cases s with e | ⟨b, rest, -, e⟩ <;> rw [e]
  · exact grows_refl s
  · refine grows_of_traces ?_ rfl rfl
    constructor <;> simp

/-- ATTACH adds to the cells' traces (R148, R271). -/
theorem tracesGrow_attachSession (s : State) : TracesGrow s (attachSession s) := by
  refine ⟨?_, ?_, ?_, ?_, ?_⟩
  · simp [attachSession, engineReset, cellInit, callCells_a, callCells_b]
  · simp [attachSession, engineReset, cellInit, callCells_a, callCells_b]
  · simp
  · simp
  · simp

/-- DETACH reports itself and counts nothing (R273). -/
theorem grows_detachSession (s : State) : Grows s (detachSession s) :=
  (grows_raise .sessionReset s).trans (grows_of_silent rfl rfl rfl rfl rfl rfl rfl)

/-! ### A step -/

/-- What a turn leaves: the straps as they were, longer traces, and outside ATTACH no smaller counter. -/
theorem grow_turnResult {c : Choice} {s t : State} (h : TurnResult s c t) :
    t.cfg = s.cfg ∧ TracesGrow s t ∧ (c ≠ .attach → CountersRise s t) := by
  have both : t.cfg = s.cfg → Grows s t → t.cfg = s.cfg ∧ TracesGrow s t ∧ (c ≠ .attach → CountersRise s t) :=
    fun hc hg => ⟨hc, hg.toTracesGrow, fun _ => hg.toCountersRise⟩
  cases h with
  | unit hu => exact both (unitResult_frame hu).1 (grows_unitResult hu)
  | attach => exact ⟨by simp, tracesGrow_attachSession s, fun hc => absurd rfl hc⟩
  | detach => exact both (by simp) (grows_detachSession s)
  | sendReady _ n => exact both (by simp) (grows_txReadyBytes n s)
  | pull b rest => exact both (by simp) (grows_pullByte b rest s)
  | pumpAcquire => exact both (by simp) (grows_pumpAcquire s)
  | pumpRender => exact both (by simp) (grows_pumpRender s)
  | pumpCommit => exact both (by simp) (grows_pumpCommit s)
  | sinkFree => exact both (by simp) (grows_sinkFree s)
  | queueEvent m a v d r =>
    exact both (by simp) ((grows_push (narrowEvent m a v d) s).trans (grows_of_silent rfl rfl rfl rfl rfl rfl rfl))
  | renderSample r => exact both (by simp) ((grows_renderSample s).trans (grows_of_silent rfl rfl rfl rfl rfl rfl rfl))
  | getMonitor r =>
    refine both (by simp) (grows_of_traces ?_ (by simp) (by simp))
    constructor <;> simp
  | answers _ r => exact both rfl (grows_of_silent rfl rfl rfl rfl rfl rfl rfl)
  | environment c => exact both (by simp) (by apply grows_of_silent <;> simp)

/-- Settles O58, by the cases of what a step can do. -/
theorem tracesAndCountersGrow : Obligations.TracesAndCountersGrow := by
  intro s t hstep
  obtain ⟨hcfg, htraces, hcounters⟩ := grow_turnResult (step_cases hstep).2
  have turn : (nextTurn s).2.cfg = s.cfg ∧ Grows s (nextTurn s).2 := by
    rw [nextTurn_eq]
    exact ⟨rfl, grows_of_silent rfl rfl rfl rfl rfl rfl rfl⟩
  obtain ⟨hturn, hgrows⟩ := turn
  obtain ⟨ha, hb, hx, hs, hp⟩ := hgrows.toTracesGrow.trans htraces
  refine ⟨hcfg.trans hturn, ha, hb, hx, hs, hp, fun hc => ?_⟩
  obtain ⟨hframes, hevents, hbytes, hresync, hfull, hpeak, hdropped⟩ := hgrows.toCountersRise.trans (hcounters hc)
  exact ⟨hframes, hevents, hbytes, hresync, hfull, hpeak, hdropped⟩

end Sys2Proof.Proofs
end

section
/-!
PROOFS. Who writes the policy, session, residual and pump registers (spec/10_state.md R22, R23, R31 to R34, R36): most operations
write none of them, a command writes the one register its opcode names, and the rest are the SESSION agent, rendering, the engine
reset and the pump.
-/

namespace Sys2Proof.Proofs

open Sys2Proof.Machine Sys2Proof.Laws

/-- From `s` to `t` no policy, session, residual or pump register is written. -/
structure KeepsRegisters (s t : State) : Prop where
  engine : t.engine = s.engine
  sess : t.sess = s.sess
  txIdx : t.txIdx = s.txIdx
  pump : t.pump = s.pump

/-- The claim about one operation `i` that leads from `s` to `t`: whichever register it writes, it is one of its writers. -/
structure FixedWriters (i : Instr) (s t : State) : Prop where
  modelMode : t.engine.modelMode ≠ s.engine.modelMode →
    (∃ p0 p1 p2, i = .cmdCycleMode p0 p1 p2) ∨ (∃ p0 p1 p2, i = .controlDispatch 0x01 p0 p1 p2) ∨ i = .readCommand
  voiceMask : t.engine.voiceMask ≠ s.engine.voiceMask →
    (∃ p0 p1 p2, i = .cmdSetVoiceMask p0 p1 p2) ∨ (∃ p0 p1 p2, i = .controlDispatch 0x02 p0 p1 p2) ∨ i = .readCommand
  filterEn : t.engine.filterEn ≠ s.engine.filterEn →
    (∃ p0 p1 p2, i = .cmdSetFilter p0 p1 p2) ∨ (∃ p0 p1 p2, i = .controlDispatch 0x03 p0 p1 p2) ∨ i = .readCommand
  acc : t.engine.acc ≠ s.engine.acc → i = .renderSample ∨ i = .pumpRender ∨ i = .engineReset ∨ i = .attach
  session : (t.sess ≠ s.sess ∨ t.txIdx ≠ s.txIdx) → i = .attach ∨ i = .txReadyByte ∨ i = .readyLine ∨ i = .detach
  pump : t.pump ≠ s.pump → i = .pumpAcquire ∨ i = .pumpRender ∨ i = .pumpCommit

theorem keepsRegisters_refl (s : State) : KeepsRegisters s s := ⟨rfl, rfl, rfl, rfl⟩

theorem keepsRegisters_ite {g : Bool} {s x : State} (h : KeepsRegisters s x) : KeepsRegisters s (if g then x else s) := by
  split
  · exact h
  · exact keepsRegisters_refl s

/-- An operation that writes none of the registers has nothing to answer for. -/
theorem KeepsRegisters.fixedWriters {i : Instr} {s t : State} (h : KeepsRegisters s t) : FixedWriters i s t := by
  obtain ⟨he, hs, hx, hu⟩ := h
  constructor <;> simp [he, hs, hx, hu]

/-! ### The commands -/

/-- Which register of the policy each opcode writes (R230 to R234). -/
theorem controlDispatch_writes (op p0 : Byte) (s : State) :
    ((controlDispatch op p0 s).engine.modelMode ≠ s.engine.modelMode → op = 0x01) ∧
    ((controlDispatch op p0 s).engine.voiceMask ≠ s.engine.voiceMask → op = 0x02) ∧
    ((controlDispatch op p0 s).engine.filterEn ≠ s.engine.filterEn → op = 0x03) := by
  unfold controlDispatch
  split_ifs <;> simp_all [cycleMode_eq, setVoiceMask, setFilter]

/-- `t` has the engine that the command `op` leaves of `s`, and the session and the pump of `s` (R230). -/
structure Commands (op p0 : Byte) (s t : State) : Prop where
  engine : t.engine = (controlDispatch op p0 s).engine
  sess : t.sess = s.sess
  txIdx : t.txIdx = s.txIdx
  pump : t.pump = s.pump

/-- A dispatched command is answerable for the register its opcode names. -/
theorem Commands.fixedWriters {i : Instr} {op p0 : Byte} {s t : State} (h : Commands op p0 s t)
    (hmode : op = 0x01 →
      (∃ p0 p1 p2, i = .cmdCycleMode p0 p1 p2) ∨ (∃ p0 p1 p2, i = .controlDispatch 0x01 p0 p1 p2) ∨ i = .readCommand)
    (hmask : op = 0x02 →
      (∃ p0 p1 p2, i = .cmdSetVoiceMask p0 p1 p2) ∨ (∃ p0 p1 p2, i = .controlDispatch 0x02 p0 p1 p2) ∨ i = .readCommand)
    (hfilter : op = 0x03 →
      (∃ p0 p1 p2, i = .cmdSetFilter p0 p1 p2) ∨ (∃ p0 p1 p2, i = .controlDispatch 0x03 p0 p1 p2) ∨ i = .readCommand) :
    FixedWriters i s t := by
  obtain ⟨he, hs, hx, hu⟩ := h
  obtain ⟨wmode, wmask, wfilter⟩ := controlDispatch_writes op p0 s
  rw [← he] at wmode wmask wfilter
  refine ⟨fun hne => hmode (wmode hne), fun hne => hmask (wmask hne), fun hne => hfilter (wfilter hne), ?_, ?_, ?_⟩ <;>
    simp [he, hs, hx, hu]

/-- A command reads and writes the engine as such (R81). -/
theorem controlDispatch_engine_congr (op p0 : Byte) {s u : State} (h : u.engine = s.engine) :
    (controlDispatch op p0 u).engine = (controlDispatch op p0 s).engine := by
  unfold controlDispatch
  split_ifs <;> simp [cycleMode_eq, setVoiceMask, setFilter, h]

theorem commands_acceptCommandRecord (op p0 : Byte) (s : State) : Commands op p0 s (acceptCommandRecord op p0 s) := by
  refine ⟨?_, ?_, ?_, ?_⟩ <;> simp [acceptCommandRecord]
  exact controlDispatch_engine_congr op p0 (by simp)

/-- A guarded command record commands or waits. -/
theorem fixedWriters_commandRecord {i : Instr} {g : Bool} {op p0 : Byte} {s : State}
    (h : FixedWriters i s (acceptCommandRecord op p0 s)) :
    FixedWriters i s (if g then acceptCommandRecord op p0 s else s) := by
  split
  · exact h
  · exact (keepsRegisters_refl s).fixedWriters

/-! ### The parser's other operations -/

theorem keepsRegisters_scanStep (s : State) : KeepsRegisters s (scanStep s) := by
  unfold scanStep
  split <;> constructor <;> simp

theorem keepsRegisters_headerStep (s : State) : KeepsRegisters s (headerStep s) := by
  unfold headerStep
  dsimp only
  split_ifs <;> constructor <;> simp

theorem keepsRegisters_acceptEvents (c f : Word32) (s : State) : KeepsRegisters s (acceptEvents c f s) := by
  constructor <;> simp

theorem keepsRegisters_acceptCommand (f : Word32) (s : State) : KeepsRegisters s (acceptCommand f s) := by
  constructor <;> simp

theorem keepsRegisters_rejectCount (c : Word32) (s : State) : KeepsRegisters s (rejectCount c s) := by
  constructor <;> simp

theorem keepsRegisters_acceptRecord (e : Event) (s : State) : KeepsRegisters s (acceptRecord e s) := by
  constructor <;> simp

/-! ### Rendering, the session and the pump -/

/-- A sample writes of the engine the residual only (R137). -/
theorem renderSample_engine (s : State) :
    (renderSample s).engine = { s.engine with acc := nextAcc s.cfg s.engine.acc } := by
  obtain ⟨_, _, -, -, -, -, -, -, -, heng, -⟩ := advanceSample_spec s
  simp [renderSample, heng]

/-- The engine reset writes of the engine the residual only (R150). -/
theorem engineReset_engine (s : State) : (engineReset s).engine = { s.engine with acc := 0 } := by
  simp [engineReset]

/-- TX_READY_BYTE, ATTACH and DETACH answer for the session's registers, ATTACH for the residual too (R22, R23, R31). -/
theorem fixedWriters_txReadyBytes {i : Instr} (n : Nat) (s : State) (hi : i = .txReadyByte ∨ i = .readyLine) :
    FixedWriters i s (txReadyBytes n s) := by
  have hwriter : i = .attach ∨ i = .txReadyByte ∨ i = .readyLine ∨ i = .detach := by tauto
  refine ⟨?_, ?_, ?_, ?_, fun _ => hwriter, ?_⟩ <;> simp

theorem fixedWriters_attach (s : State) : FixedWriters .attach s (attachSession s) := by
  refine ⟨?_, ?_, ?_, fun _ => by simp, fun _ => by simp, ?_⟩ <;> simp [attachSession, engineReset_engine]

theorem fixedWriters_detach (s : State) : FixedWriters .detach s (detachSession s) := by
  refine ⟨?_, ?_, ?_, ?_, fun _ => by simp, ?_⟩ <;> simp

/-- A sample answers for the residual. -/
theorem fixedWriters_renderSample (r : PortValue) (s : State) :
    FixedWriters .renderSample s (answer r (renderSample s)) := by
  refine ⟨?_, ?_, ?_, fun _ => by simp, ?_, ?_⟩ <;> simp [renderSample_engine]

theorem fixedWriters_engineReset (s : State) : FixedWriters .engineReset s (engineReset s) := by
  refine ⟨?_, ?_, ?_, fun _ => by simp, ?_, ?_⟩ <;> simp [engineReset_engine]

/-- The pump answers for its registers, PUMP_RENDER for the residual too (R36, R167). -/
theorem fixedWriters_pumpRender (s : State) : FixedWriters .pumpRender s (pumpRender s) := by
  rcases pumpRender_cases s with e | ⟨-, -, e⟩
  · rw [e]
    exact (keepsRegisters_refl s).fixedWriters
  · have hengine : (pumpRender s).engine = { s.engine with acc := nextAcc s.cfg s.engine.acc } := by
      rw [e]
      exact renderSample_engine s
    refine ⟨?_, ?_, ?_, fun _ => by simp, ?_, fun _ => by simp⟩ <;> simp [hengine]

theorem fixedWriters_pumpAcquire (s : State) : FixedWriters .pumpAcquire s (pumpAcquire s) := by
  refine ⟨?_, ?_, ?_, ?_, ?_, fun _ => by simp⟩ <;> simp

theorem fixedWriters_pumpCommit (s : State) : FixedWriters .pumpCommit s (pumpCommit s) := by
  refine ⟨?_, ?_, ?_, ?_, ?_, fun _ => by simp⟩ <;> simp

/-! ### Operations with an answer or a precondition of their own -/

theorem keepsRegisters_pull {s t : State} (h : exec .pull s = .next t) : KeepsRegisters s t := by
  change execPull s = _ at h
  unfold execPull at h
  split at h
  · cases h
    exact keepsRegisters_refl s
  · cases h
    exact keepsRegisters_ite (by constructor <;> simp)

theorem keepsRegisters_dropOldest {s t : State} (h : exec .dropOldest s = .next t) : KeepsRegisters s t := by
  change execDropOldest s = _ at h
  unfold execDropOldest at h
  split_ifs at h
  cases h
  constructor <;> simp

theorem keepsRegisters_pop {s t : State} (h : exec .pop s = .next t) : KeepsRegisters s t := by
  change execPop s = _ at h
  unfold execPop at h
  split_ifs at h <;> cases h <;> constructor <;> simp

theorem keepsRegisters_consumeCycles {run : Word32} {s t : State} (h : exec (.consumeCycles run) s = .next t) :
    KeepsRegisters s t := by
  change execConsumeCycles run s = _ at h
  unfold execConsumeCycles at h
  split_ifs at h
  cases h
  constructor <;> simp

theorem keepsRegisters_takeFree {s t : State} (h : exec .takeFree s = .next t) : KeepsRegisters s t := by
  change execTakeFree s = _ at h
  unfold execTakeFree at h
  split at h <;> cases h <;> constructor <;> simp

theorem keepsRegisters_giveFull {b : Nat} {s t : State} (h : exec (.giveFull b) s = .next t) : KeepsRegisters s t := by
  change execGiveFull b s = _ at h
  unfold execGiveFull at h
  split_ifs at h
  cases h
  constructor <;> simp

theorem keepsRegisters_sidClock {c : CellId} {n : Word32} {s t : State} (h : exec (.sidClock c n) s = .next t) :
    KeepsRegisters s t := by
  change execSidClock c n s = _ at h
  unfold execSidClock at h
  split_ifs at h
  cases h
  constructor <;> simp

/-- Every operation answers for the registers it writes. -/
theorem fixedWriters_of_exec {i : Instr} {s t : State} (hw : i.wellFormed = true) (h : exec i s = .next t) :
    FixedWriters i s t := by
  cases i with
  | scanMatch => cases h; exact (keepsRegisters_ite (by constructor <;> simp)).fixedWriters
  | scanMiss => cases h; exact (keepsRegisters_ite (by constructor <;> simp)).fixedWriters
  | hdr12Events | hdr12EventsMax | hdr10Events | hdr10EventsMax =>
    cases h; exact (keepsRegisters_ite (keepsRegisters_acceptEvents _ _ s)).fixedWriters
  | hdr12Command | hdr10Command => cases h; exact (keepsRegisters_ite (keepsRegisters_acceptCommand _ s)).fixedWriters
  | hdr12Oversized | hdr10Oversized => cases h; exact (keepsRegisters_ite (keepsRegisters_rejectCount _ s)).fixedWriters
  | ev6 | ev8 => cases h; exact (keepsRegisters_ite (keepsRegisters_acceptRecord _ s)).fixedWriters
  | scanMagic => cases h; exact (keepsRegisters_ite (keepsRegisters_scanStep s)).fixedWriters
  | readHeader => cases h; exact (keepsRegisters_ite (keepsRegisters_headerStep s)).fixedWriters
  | readEvents => cases h; exact (keepsRegisters_ite (keepsRegisters_acceptRecord _ s)).fixedWriters
  | cmdCycleMode p0 p1 p2 =>
    cases h
    exact fixedWriters_commandRecord ((commands_acceptCommandRecord _ _ s).fixedWriters
      (fun _ => .inl ⟨p0, p1, p2, rfl⟩) (by simp) (by simp))
  | cmdSetVoiceMask p0 p1 p2 =>
    cases h
    exact fixedWriters_commandRecord ((commands_acceptCommandRecord _ _ s).fixedWriters (by simp)
      (fun _ => .inl ⟨p0, p1, p2, rfl⟩) (by simp))
  | cmdSetFilter p0 p1 p2 =>
    cases h
    exact fixedWriters_commandRecord ((commands_acceptCommandRecord _ _ s).fixedWriters (by simp) (by simp)
      (fun _ => .inl ⟨p0, p1, p2, rfl⟩))
  | cmdUnknown op p0 p1 p2 =>
    cases h
    simp only [Instr.wellFormed, unknownOpcode, Bool.and_eq_true, decide_eq_true_eq] at hw
    obtain ⟨⟨hne1, hne2⟩, hne3⟩ := hw
    exact fixedWriters_commandRecord ((commands_acceptCommandRecord _ _ s).fixedWriters (fun he => absurd he hne1)
      (fun he => absurd he hne2) (fun he => absurd he hne3))
  | controlDispatch op p0 p1 p2 =>
    cases h
    have hc : Commands op p0 s (controlDispatch op p0 s) := by
      constructor <;> simp
    refine hc.fixedWriters (fun he => ?_) (fun he => ?_) (fun he => ?_) <;> subst he
    · exact .inr (.inl ⟨p0, p1, p2, rfl⟩)
    · exact .inr (.inl ⟨p0, p1, p2, rfl⟩)
    · exact .inr (.inl ⟨p0, p1, p2, rfl⟩)
  | readCommand =>
    cases h
    exact fixedWriters_commandRecord ((commands_acceptCommandRecord _ _ s).fixedWriters (fun _ => .inr (.inr rfl))
      (fun _ => .inr (.inr rfl)) (fun _ => .inr (.inr rfl)))
  | readyLine =>
    have ht : txReadyBytes 14 s = t := Host.Outcome.next.inj h
    exact ht ▸ fixedWriters_txReadyBytes 14 s (.inr rfl)
  | txReadyByte =>
    have ht : txReadyBytes 1 s = t := Host.Outcome.next.inj h
    exact ht ▸ fixedWriters_txReadyBytes 1 s (.inl rfl)
  | attach =>
    cases h
    split
    · exact fixedWriters_attach s
    · exact (keepsRegisters_refl s).fixedWriters
  | detach =>
    cases h
    split
    · exact (keepsRegisters_refl s).fixedWriters
    · exact fixedWriters_detach s
  | renderSample => cases h; exact fixedWriters_renderSample _ s
  | engineReset => cases h; exact fixedWriters_engineReset s
  | pumpAcquire => cases h; exact fixedWriters_pumpAcquire s
  | pumpRender => cases h; exact fixedWriters_pumpRender s
  | pumpCommit => cases h; exact fixedWriters_pumpCommit s
  | pull => exact (keepsRegisters_pull h).fixedWriters
  | dropOldest => exact (keepsRegisters_dropOldest h).fixedWriters
  | pop => exact (keepsRegisters_pop h).fixedWriters
  | consumeCycles => exact (keepsRegisters_consumeCycles h).fixedWriters
  | takeFree => exact (keepsRegisters_takeFree h).fixedWriters
  | giveFull => exact (keepsRegisters_giveFull h).fixedWriters
  | sidClock => exact (keepsRegisters_sidClock h).fixedWriters
  | _ =>
    -- what is left answers, accounts, queues, or calls a cell, unguarded
    cases h
    refine KeepsRegisters.fixedWriters ?_
    constructor <;> simp

/-- Settles O59: the claim about one operation, for each of them. -/
theorem registersHaveFixedWriters : Obligations.RegistersHaveFixedWriters := by
  intro i s t hw h
  obtain ⟨hmode, hmask, hfilter, hacc, hsession, hpump⟩ := fixedWriters_of_exec hw h
  exact ⟨hmode, hmask, hfilter, hacc, hsession, hpump⟩

end Sys2Proof.Proofs
end

section
/-!
PROOFS. Power-on reset (spec/70_reset_and_hazards.md R331): a sample on an empty queue written out, the pre-fill as `n` of them,
the sequence `powerOn` against the written-out `State.afterPowerOn`, and the invariants of that state (spec/10_state.md R47, R48).
-/

namespace Sys2Proof.Proofs

open Sys2Proof.Machine Sys2Proof.Laws

/-! ### The numbers of the pre-fill -/

/-- The residual after `n` samples from residual `acc` (R137). -/
def idleAcc (cfg : Config) : Nat → Nat → Nat
  | 0, acc => acc
  | n + 1, acc => idleAcc cfg n (nextAcc cfg acc)

/-- What a sample from residual `acc` reports (R137, R297). -/
def budgetStatus (cfg : Config) (acc : Nat) : List StatusEvent := if zeroCycle cfg acc then [.error .zeroCycle] else []

/-- What `n` samples from residual `acc` report. -/
def idleStatus (cfg : Config) : Nat → Nat → List StatusEvent
  | 0, _ => []
  | n + 1, acc => budgetStatus cfg acc ++ idleStatus cfg n (nextAcc cfg acc)

theorem idleAcc_add (cfg : Config) (m n acc : Nat) : idleAcc cfg (m + n) acc = idleAcc cfg n (idleAcc cfg m acc) := by
  induction m generalizing acc with
  | zero => rw [Nat.zero_add]; rfl
  | succ m ih => rw [Nat.succ_add]; exact ih _

theorem idleStatus_add (cfg : Config) (m n acc : Nat) :
    idleStatus cfg (m + n) acc = idleStatus cfg m acc ++ idleStatus cfg n (idleAcc cfg m acc) := by
  induction m generalizing acc with
  | zero => rw [Nat.zero_add]; rfl
  | succ m ih => rw [Nat.succ_add, idleStatus, ih, idleStatus, List.append_assoc]; rfl

theorem idleCycles_add (cfg : Config) (m n acc : Nat) :
    idleCycles cfg (m + n) acc = idleCycles cfg m acc ++ idleCycles cfg n (idleAcc cfg m acc) := by
  induction m generalizing acc with
  | zero => rw [Nat.zero_add]; rfl
  | succ m ih => rw [Nat.succ_add, idleCycles, ih]; rfl

theorem idleCalls_append (xs ys : List Nat) : idleCalls (xs ++ ys) = idleCalls xs ++ idleCalls ys := by
  induction xs with
  | nil => rfl
  | cons x xs ih => simp [idleCalls, ih]

theorem idleFrames_append (cfg : Config) (xs ys : List Nat) (j : Nat) (ta tb : List CellCall) :
    idleFrames cfg (xs ++ ys) j ta tb =
      idleFrames cfg xs j ta tb ++ idleFrames cfg ys (j + xs.length) (ta ++ idleCalls xs) (tb ++ idleCalls xs) := by
  induction xs generalizing j ta tb with
  | nil => simp [idleFrames, idleCalls]
  | cons x xs ih =>
    simp only [List.cons_append, idleFrames, ih, idleCalls, List.length_cons]
    rw [Nat.add_right_comm j 1, Nat.add_assoc j]
    simp

/-- One `output` for each sample (R140). -/
theorem outputs_idleCalls (cs : List Nat) : ((idleCalls cs).filter (· = .output)).length = cs.length := by
  induction cs with
  | nil => rfl
  | cons c cs ih => simp [idleCalls, ih]

/-- The samples clock their budgets (R139). -/
theorem clockedCycles_idleCalls (cs : List Nat) : clockedCycles (idleCalls cs) = cs.sum := by
  induction cs with
  | nil => rfl
  | cons c cs ih => simp [idleCalls, clockedCycles, ih]

/-- At least one cycle a sample: no forced branch (R137). -/
theorem zeroCycle_of_le {cfg : Config} (h0 : 0 < cfg.fsHz) (h : cfg.fsHz ≤ cfg.clkHz) (acc : Nat) :
    zeroCycle cfg acc = false := by
  have : 1 ≤ (acc + cfg.clkHz) / cfg.fsHz := (Nat.le_div_iff_mul_le h0).2 (by omega)
  simp only [zeroCycle, decide_eq_false_iff_not]
  omega

/-- Less than one cycle a sample: the first is forced, and leaves no residual (R137). -/
theorem zeroCycle_zero_of_lt {cfg : Config} (h : cfg.clkHz < cfg.fsHz) : zeroCycle cfg 0 = true := by
  simp [zeroCycle, Nat.div_eq_of_lt h]

/-- With no forced sample the residual is what the frequencies leave over (R156). -/
theorem idleAcc_of_le {cfg : Config} (h0 : 0 < cfg.fsHz) (h : cfg.fsHz ≤ cfg.clkHz) (n acc : Nat) (ha : acc < cfg.fsHz) :
    idleAcc cfg n acc = (acc + n * cfg.clkHz) % cfg.fsHz := by
  induction n generalizing acc with
  | zero => simp [idleAcc, Nat.mod_eq_of_lt ha]
  | succ n ih =>
    rw [idleAcc, ih _ (nextAcc_lt cfg acc h0), nextAcc, zeroCycle_of_le h0 h acc, if_neg (by decide), Nat.mod_add_mod,
      Nat.succ_mul]
    congr 1
    omega

/-- With no forced sample nothing is reported. -/
theorem idleStatus_of_le {cfg : Config} (h0 : 0 < cfg.fsHz) (h : cfg.fsHz ≤ cfg.clkHz) (n acc : Nat) :
    idleStatus cfg n acc = [] := by
  induction n generalizing acc with
  | zero => rfl
  | succ n ih => simp [idleStatus, budgetStatus, zeroCycle_of_le h0 h, ih]

/-- With no forced sample the budgets add up to the cycles of the time rendered (R156). -/
theorem sum_idleCycles_of_le {cfg : Config} (h0 : 0 < cfg.fsHz) (h : cfg.fsHz ≤ cfg.clkHz) (n acc : Nat)
    (ha : acc < cfg.fsHz) : (idleCycles cfg n acc).sum = (acc + n * cfg.clkHz) / cfg.fsHz := by
  induction n generalizing acc with
  | zero => simp [idleCycles, Nat.div_eq_of_lt ha]
  | succ n ih =>
    have hz := zeroCycle_of_le h0 h acc
    rw [idleCycles, List.sum_cons, ih _ (nextAcc_lt cfg acc h0), cycleBudget, nextAcc, hz, if_neg (by decide),
      if_neg (by decide)]
    have hsplit : acc + (n + 1) * cfg.clkHz =
        ((acc + cfg.clkHz) % cfg.fsHz + n * cfg.clkHz) + cfg.fsHz * ((acc + cfg.clkHz) / cfg.fsHz) := by
      have := Nat.mod_add_div (acc + cfg.clkHz) cfg.fsHz
      rw [Nat.succ_mul]
      omega
    rw [hsplit, Nat.add_mul_div_left _ _ h0, Nat.add_comm]

/-- With every sample forced there is never a residual. -/
theorem idleAcc_of_lt {cfg : Config} (h : cfg.clkHz < cfg.fsHz) (n : Nat) : idleAcc cfg n 0 = 0 := by
  induction n with
  | zero => rfl
  | succ n ih => rw [idleAcc, nextAcc, zeroCycle_zero_of_lt h, if_pos rfl, ih]

/-- With every sample forced each reports it. -/
theorem idleStatus_of_lt {cfg : Config} (h : cfg.clkHz < cfg.fsHz) (n : Nat) :
    idleStatus cfg n 0 = List.replicate n (.error .zeroCycle) := by
  induction n with
  | zero => rfl
  | succ n ih =>
    rw [idleStatus, budgetStatus, nextAcc, zeroCycle_zero_of_lt h, if_pos rfl, if_pos rfl, ih]
    rfl

/-! ### Samples on an empty queue -/

/-- A write above everything written is appended. -/
theorem memWrite_of_above {α : Type} (m : Memory α) (a : Nat) (v : α) (h : ∀ p ∈ m, p.1 < a) :
    memWrite m a v = m ++ [(a, v)] := by
  induction m with
  | nil => rfl
  | cons p m ih =>
    obtain ⟨b, w⟩ := p
    have hb : b < a := h (b, w) (by simp)
    rw [memWrite, if_neg (by omega), if_neg (by omega), ih fun p hp => h p (by simp [hp])]
    rfl

/-- Steps 1 to 3 of a sample with no event held: both cells are clocked once, by the whole budget (R137 to R139). -/
theorem advanceSample_of_empty {s : State} (h : s.queue.count = 0) :
    advanceSample s = { s with
      engine := { s.engine with acc := nextAcc s.cfg s.engine.acc }
      status := s.status ++ budgetStatus s.cfg s.engine.acc
      cellA := { s.cellA with trace := s.cellA.trace ++ [.clock (cycleBudget s.cfg s.engine.acc)] }
      cellB := { s.cellB with trace := s.cellB.trace ++ [.clock (cycleBudget s.cfg s.engine.acc)] } } := by
  have hbudget := one_le_cycleBudget s.cfg s.engine.acc
  have hdrain : drainZero (takeBudget s) = takeBudget s := by simp [drainZero, drainLoop, h]
  have hempty : (takeBudget s).queue.count = 0 := by simp [h]
  unfold advanceSample
  dsimp only
  rw [hdrain, hempty, segments, if_neg (by omega)]
  simp only [segmentRun, clockBoth_frame, hempty, lt_irrefl, if_false, Nat.sub_self, segments_zero]
  rw [takeBudget_eq, budgetStatus]
  simp only [clockBoth, callCell]
  split <;> simp

/-- A sample with no event held: one `clock` and one `output` on each cell (R139, R140). -/
theorem renderSample_of_empty {s : State} (h : s.queue.count = 0) :
    renderSample s = { s with
      engine := { s.engine with acc := nextAcc s.cfg s.engine.acc }
      status := s.status ++ budgetStatus s.cfg s.engine.acc
      cellA := { s.cellA with trace := s.cellA.trace ++ [.clock (cycleBudget s.cfg s.engine.acc), .output] }
      cellB := { s.cellB with trace := s.cellB.trace ++ [.clock (cycleBudget s.cfg s.engine.acc), .output] } } := by
  rw [renderSample, advanceSample_of_empty h]
  simp [readOutputs, callCell]

/-- Its frame: the outputs once the cells have been clocked (R140). -/
theorem sampleFrame_of_empty {s : State} (h : s.queue.count = 0) :
    sampleFrame s = frameOf s.cfg
      (cellOutputOf s.cfg .a (s.cellA.trace ++ [.clock (cycleBudget s.cfg s.engine.acc)]) s.cellA.out)
      (cellOutputOf s.cfg .b (s.cellB.trace ++ [.clock (cycleBudget s.cfg s.engine.acc)]) s.cellB.out) := by
  rw [sampleFrame, advanceSample_of_empty h]
  rfl

/-- `s` after `n` samples on an empty queue, their frames put into the pump's buffer from its index on (R167). -/
def afterIdle (n : Nat) (s : State) : State :=
  let cycles := idleCycles s.cfg n s.engine.acc
  { s with
    engine := { s.engine with acc := idleAcc s.cfg n s.engine.acc }
    status := s.status ++ idleStatus s.cfg n s.engine.acc
    cellA := { s.cellA with trace := s.cellA.trace ++ idleCalls cycles }
    cellB := { s.cellB with trace := s.cellB.trace ++ idleCalls cycles }
    pump := { s.pump with idx := s.pump.idx + n }
    pool := { s.pool with
      audio := s.pool.audio ++
        idleFrames s.cfg cycles (audioAddr s.cfg s.pump.buf s.pump.idx) s.cellA.trace s.cellB.trace } }

/-- A state in which the pre-fill renders: no event is held, the mock's outputs are 0, and the pump has its buffer, above which
nothing is written. -/
structure Filling (s : State) : Prop where
  empty : s.queue.count = 0
  outA : s.cellA.out = 0
  outB : s.cellB.out = 0
  active : s.pump.active = true
  above : ∀ p ∈ s.pool.audio, p.1 < audioAddr s.cfg s.pump.buf s.pump.idx

/-- One PUMP_RENDER of the pre-fill. -/
theorem pumpRender_of_filling {s : State} (h : Filling s) (hidx : s.pump.idx < s.cfg.frames) :
    pumpRender s = afterIdle 1 s := by
  rcases pumpRender_cases s with e | ⟨-, -, e⟩
  · unfold pumpRender at e
    rw [if_pos (by simp [h.active, hidx])] at e
    have := congrArg (fun t => t.pump.idx) e
    simp at this
  · rw [e, renderSample_of_empty h.empty, sampleFrame_of_empty h.empty, memWrite_of_above _ _ _ h.above, h.outA, h.outB]
    simp [afterIdle, idleStatus, idleAcc, idleCycles, idleCalls, idleFrames]

/-- The pre-fill goes on from where one PUMP_RENDER leaves it. -/
theorem filling_afterIdle_one {s : State} (h : Filling s) : Filling (afterIdle 1 s) := by
  refine ⟨h.empty, h.outA, h.outB, h.active, ?_⟩
  intro p hp
  have haddr : audioAddr (afterIdle 1 s).cfg (afterIdle 1 s).pump.buf (afterIdle 1 s).pump.idx =
      audioAddr s.cfg s.pump.buf s.pump.idx + 1 := rfl
  rw [haddr]
  simp only [afterIdle, idleCycles, idleFrames, List.mem_append, List.mem_singleton] at hp
  rcases hp with hp | rfl
  · have := h.above p hp
    omega
  · simp

theorem afterIdle_succ (n : Nat) (s : State) : afterIdle n (afterIdle 1 s) = afterIdle (n + 1) s := by
  simp [afterIdle, idleCycles, idleAcc, idleStatus, idleCalls, idleFrames, audioAddr, Nat.add_assoc, Nat.add_comm 1 n]

/-- `n` PUMP_RENDERs of the pre-fill. -/
theorem pumpRenders_of_filling (n : Nat) {s : State} (h : Filling s) (hidx : s.pump.idx + n ≤ s.cfg.frames) :
    pumpRenders n s = afterIdle n s := by
  induction n generalizing s with
  | zero => simp [pumpRenders, afterIdle, idleAcc, idleStatus, idleCycles, idleCalls, idleFrames]
  | succ n ih =>
    rw [pumpRenders, pumpRender_of_filling h (by omega), ih (filling_afterIdle_one h), afterIdle_succ]
    show s.pump.idx + 1 + n ≤ s.cfg.frames
    omega

/-! ### One buffer of the pre-fill -/

/-- `s` after buffer `b` has been acquired, filled on an empty queue and committed (R170). -/
def afterFill (b : Nat) (s : State) : State :=
  let cycles := idleCycles s.cfg s.cfg.frames s.engine.acc
  { s with
    engine := { s.engine with acc := idleAcc s.cfg s.cfg.frames s.engine.acc }
    status := s.status ++ idleStatus s.cfg s.cfg.frames s.engine.acc
    cellA := { s.cellA with trace := s.cellA.trace ++ idleCalls cycles }
    cellB := { s.cellB with trace := s.cellB.trace ++ idleCalls cycles }
    pump := { active := false, buf := b, idx := 0 }
    pool := { s.pool with
      buffers := s.pool.buffers.modify b fun _ => { cond := .full, sampleCount := s.cfg.frames }
      full := s.pool.full ++ [b]
      audio := s.pool.audio ++ idleFrames s.cfg cycles (audioAddr s.cfg b 0) s.cellA.trace s.cellB.trace } }

/-- `pump_buffer` with an idle pump, an empty queue and a FREE buffer (R170). -/
theorem pumpBuffer_eq_afterFill {s : State} {b : Nat} (hidle : s.pump.active = false) (hb : firstFree s.pool.buffers = some b)
    (hempty : s.queue.count = 0) (ha : s.cellA.out = 0) (hbo : s.cellB.out = 0)
    (habove : ∀ p ∈ s.pool.audio, p.1 < audioAddr s.cfg b 0) : pumpBuffer s = afterFill b s := by
  have hacquire : pumpAcquire s = { takeBuffer b s with pump := { active := true, buf := b, idx := 0 } } := by
    unfold pumpAcquire
    rw [if_neg (by simp [hidle]), hb]
  have hfill : Filling (pumpAcquire s) := by
    rw [hacquire]
    exact ⟨hempty, ha, hbo, rfl, habove⟩
  have hidx : (pumpAcquire s).pump.idx = 0 := by rw [hacquire]
  unfold pumpBuffer
  rw [pumpRenders_of_filling _ hfill (by simp [hidx]), hacquire]
  unfold pumpCommit
  rw [if_pos (by simp [afterIdle])]
  simp [afterIdle, afterFill, takeBuffer, giveFull, setBuffer, List.modify_modify_eq, Function.comp_def]

/-! ### The sequence -/

/-- What the reset sequence has made before the pre-fill: R47's values and the two cells constructed and initialised (R331). -/
def afterBoot (cfg : Config) : State :=
  { State.powerOnValues cfg with cellA := { trace := bootCalls cfg .a }, cellB := { trace := bootCalls cfg .b } }

theorem reset_eq_afterBoot {cfg : Config} (hv : cfg.valid = true) :
    parserReset (engineReset (cellConstruct .b (cellConstruct .a (State.powerOnValues cfg)))) = afterBoot cfg := by
  have hhigh : 0 < cfg.highWm := by
    obtain ⟨-, -, -, -, -, -, -, hlow, -⟩ := valid_bounds hv
    omega
  have hpaused : pausedAt cfg false 0 = false := pausedAt_zero cfg false hhigh
  simp [parserReset, engineReset, cellInit, cellConstruct, callCells_a, callCells_b, queueReset, flowUpdate, afterBoot,
    State.powerOnValues, bootCalls, hpaused]

/-- The pool after the pre-fill of two buffers (R170). -/
theorem buffers_after_prefill (k : Nat) (x : Buffer) :
    ((List.replicate (k + 2) ({} : Buffer)).modify 0 fun _ => x).modify 1 (fun _ => x) =
      List.replicate 2 x ++ List.replicate k ({} : Buffer) := by
  simp [List.replicate_succ]

/-- The residual after the pre-fill (R331). -/
theorem idleAcc_prefill {cfg : Config} (h0 : 0 < cfg.fsHz) (n : Nat) :
    idleAcc cfg n 0 = if cfg.fsHz ≤ cfg.clkHz then n * cfg.clkHz % cfg.fsHz else 0 := by
  split
  · rw [idleAcc_of_le h0 ‹_› n 0 h0, Nat.zero_add]
  · exact idleAcc_of_lt (by omega) n

/-- What the pre-fill reports (R137). -/
theorem idleStatus_prefill {cfg : Config} (h0 : 0 < cfg.fsHz) (n : Nat) :
    idleStatus cfg n 0 = if cfg.fsHz ≤ cfg.clkHz then [] else List.replicate n (.error .zeroCycle) := by
  split
  · exact idleStatus_of_le h0 ‹_› n 0
  · exact idleStatus_of_lt (by omega) n

/-- The two buffers of the pre-fill, filled one after the other, are what `State.afterPowerOn` writes out (R170, R331). -/
theorem afterFill_afterFill_afterBoot {cfg : Config} (hv : cfg.valid = true) :
    afterFill 1 (afterFill 0 (afterBoot cfg)) = State.afterPowerOn cfg := by
  obtain ⟨-, -, -, -, hnbuf, -, hfs, -, -⟩ := valid_bounds hv
  obtain ⟨k, hk⟩ := Nat.exists_eq_add_of_le' hnbuf
  have hacc := idleAcc_prefill hfs (cfg := cfg) (2 * cfg.frames)
  have hstatus := idleStatus_prefill hfs (cfg := cfg) (2 * cfg.frames)
  have hcycles := idleCycles_add cfg cfg.frames cfg.frames 0
  rw [two_mul, idleAcc_add] at hacc
  rw [two_mul, idleStatus_add] at hstatus
  have hbuffers : ((List.replicate cfg.nbuf ({} : Buffer)).modify 0
      fun _ => { cond := .full, sampleCount := cfg.frames }).modify 1 (fun _ => { cond := .full, sampleCount := cfg.frames }) =
      List.replicate 2 { cond := .full, sampleCount := cfg.frames } ++ List.replicate (cfg.nbuf - 2) ({} : Buffer) := by
    rw [hk, buffers_after_prefill, Nat.add_sub_cancel]
  have hframes := fun ta tb => idleFrames_append cfg (idleCycles cfg cfg.frames 0)
    (idleCycles cfg cfg.frames (idleAcc cfg cfg.frames 0)) 0 ta tb
  simp only [idleCycles_length, Nat.zero_add] at hframes
  simp [afterFill, afterBoot, State.afterPowerOn, State.powerOnValues, two_mul, hacc, hstatus, hcycles, hbuffers, hframes,
    idleCalls_append, audioAddr]

/-- The reset sequence leaves what `State.afterPowerOn` writes out (R331). -/
theorem powerOn_eq {cfg : Config} (hv : cfg.valid = true) : powerOn cfg = .next (State.afterPowerOn cfg) := by
  obtain ⟨-, -, -, -, hnbuf, -⟩ := valid_bounds hv
  obtain ⟨k, hk⟩ := Nat.exists_eq_add_of_le' hnbuf
  have hfirst : firstFree (afterBoot cfg).pool.buffers = some 0 := by
    simp [afterBoot, State.powerOnValues, hk, List.replicate_succ, firstFree]
  have hsecond : firstFree (afterFill 0 (afterBoot cfg)).pool.buffers = some 1 := by
    simp [afterFill, afterBoot, State.powerOnValues, hk, List.replicate_succ, firstFree]
  have hbelow : ∀ p ∈ (afterFill 0 (afterBoot cfg)).pool.audio, p.1 < audioAddr cfg 1 0 := by
    intro p hp
    have hkeys := List.mem_map_of_mem (f := Prod.fst) hp
    simp only [afterFill, afterBoot, State.powerOnValues, List.nil_append, idleFrames_addresses, idleCycles_length,
      List.mem_range'_1, audioAddr] at hkeys ⊢
    omega
  calc powerOn cfg
      = .next (pumpBuffer (pumpBuffer (afterBoot cfg))) := by
        rw [← reset_eq_afterBoot hv]
        exact if_pos hv
    _ = .next (afterFill 1 (afterFill 0 (afterBoot cfg))) := by
        rw [pumpBuffer_eq_afterFill rfl hfirst rfl rfl rfl (by simp [afterBoot, State.powerOnValues]),
          pumpBuffer_eq_afterFill rfl hsecond rfl rfl rfl hbelow]
    _ = .next (State.afterPowerOn cfg) := by rw [afterFill_afterFill_afterBoot hv]

/-- Settles O57: the sequence leaves the state written out, and that state has the values listed. -/
theorem powerOnLeaves : Obligations.PowerOnLeaves := by
  intro cfg hv
  have hfs : 0 < cfg.fsHz := fsHz_pos_of_valid hv
  refine ⟨powerOn_eq hv, State.afterPowerOn cfg, idleCalls (idleCycles cfg (2 * cfg.frames) 0),
    idleCalls (idleCycles cfg (2 * cfg.frames) 0), powerOn_eq hv, rfl, rfl, rfl, rfl, rfl, rfl, rfl, rfl, rfl, rfl, rfl, rfl,
    fun hle => ⟨if_pos hle, if_pos hle⟩, fun hlt => if_neg (by omega), rfl, ?_, ?_, rfl, ?_, fun hle => ?_⟩
  · simp [State.afterPowerOn, bootCalls, constructCalls, initCalls]
  · simp [State.afterPowerOn, bootCalls, constructCalls, initCalls]
  · rw [outputs_idleCalls, idleCycles_length]
  · rw [clockedCycles_idleCalls, sum_idleCycles_of_le hfs hle _ 0 hfs, Nat.zero_add]

/-! ### The invariants of the power-on state -/

/-- The buffers after the pre-fill: two of one kind, the others of another (R170). -/
theorem getElem?_prefilled (n b : Nat) (x y : Buffer) :
    (List.replicate 2 x ++ List.replicate n y)[b]? = if b < 2 then some x else if b < 2 + n then some y else none := by
  rw [List.getElem?_append, List.length_replicate, List.getElem?_replicate, List.getElem?_replicate]
  by_cases h : b < 2
  · rw [if_pos h, if_pos h, if_pos h]
  · rw [if_neg h, if_neg h]
    exact if_congr (by omega) rfl rfl

theorem inv_afterPowerOn {cfg : Config} (hv : cfg.valid = true) : Inv (State.afterPowerOn cfg) := by
  obtain ⟨hN, -, hK, -, -, -, hfs, hlow, hhigh⟩ := valid_bounds hv
  obtain ⟨hring, hrecent, haudio⟩ := afterPowerOn_memory_wf cfg
  have hregs : QueueOk (State.afterPowerOn cfg) :=
    ⟨Nat.zero_le _, show 0 < cfg.queueCap by omega, (Nat.zero_mod _).symm, Nat.zero_le _,
      fun j hj => absurd hj (Nat.not_lt_zero j)⟩
  refine Inv_of hv ⟨hlow, hregs, hring, (fun p hp => by cases hp), fun _ => show 0 < cfg.highWm by omega⟩
    (parserOk_of_scanning rfl (Nat.zero_le _)) ⟨fun _ => ⟨rfl, rfl⟩, fun h => by cases h⟩ ?_ (fun _ => rfl)
    (Nat.zero_le _) (show 0 < cfg.recentSize by omega) hrecent haudio (fun p hp => by cases hp)
  show (if cfg.fsHz ≤ cfg.clkHz then 2 * cfg.frames * cfg.clkHz % cfg.fsHz else 0) < cfg.fsHz
  split
  · exact Nat.mod_lt _ hfs
  · exact hfs

theorem poolOk_afterPowerOn {cfg : Config} (hv : cfg.valid = true) : PoolOk (State.afterPowerOn cfg) := by
  obtain ⟨-, -, -, -, hnbuf, -⟩ := valid_bounds hv
  have hget : ∀ b, (State.afterPowerOn cfg).pool.buffers[b]? =
      if b < 2 then some { cond := .full, sampleCount := cfg.frames }
      else if b < 2 + (cfg.nbuf - 2) then some {} else none :=
    fun b => getElem?_prefilled _ _ _ _
  have hmem : ∀ b, b ∈ (State.afterPowerOn cfg).pool.full ↔ b < 2 := by
    intro b
    show b ∈ [0, 1] ↔ b < 2
    simp
    omega
  refine poolOk_of_condIn ?_ (fun b => ?_) (fun b => ?_) (show [0, 1].Nodup by decide) (fun b hb => ?_) (fun b hb j hj => ?_)
    ?_
  · show (List.replicate 2 _ ++ List.replicate (cfg.nbuf - 2) _).length = cfg.nbuf
    simp
    omega
  · rw [condIn, hget]
    constructor
    · intro h
      split_ifs at h <;> cases h
    · rintro ⟨h, -⟩
      cases h
  · rw [hmem, condIn, hget]
    split_ifs <;> simp [*]
  · rw [hget, if_pos ((hmem b).1 hb)]
    rfl
  · have hb2 := (hmem b).1 hb
    have hj' : j < cfg.frames := hj
    refine (idleFrames_written cfg _ 0 _ _ _).2 ⟨Nat.zero_le _, ?_⟩
    rw [idleCycles_length]
    show b * cfg.frames + j < 0 + 2 * cfg.frames
    have : b * cfg.frames ≤ 1 * cfg.frames := Nat.mul_le_mul_right _ (by omega)
    omega
  · intro h
    cases h

theorem eagerOk_afterPowerOn (cfg : Config) : EagerOk (State.afterPowerOn cfg) := by
  have hlen : 0 < cfg.hdr.len := by
    have := (unit_len_bounds cfg.hdr cfg.rcd).1
    omega
  refine ⟨fun _ => hlen, fun h => ?_, fun h => ?_, fun h => ?_, fun h => ?_, Nat.zero_le _⟩ <;> cases h

/-- Settles O53: the power-on state of every admissible configuration, and so `State.reset`. -/
theorem resetHasInv : Obligations.ResetHasInv := by
  have all : ∀ cfg : Config, cfg.valid = true →
      Inv (State.afterPowerOn cfg) ∧ PoolOk (State.afterPowerOn cfg) ∧ EagerOk (State.afterPowerOn cfg) :=
    fun cfg hv => ⟨inv_afterPowerOn hv, poolOk_afterPowerOn hv, eagerOk_afterPowerOn cfg⟩
  exact ⟨all, all Config.standard (by decide)⟩

end Sys2Proof.Proofs
end


section
/-!
PROOFS. The order of the event queue (spec/20_memory.md R62; spec/43_event_queue.md R181 to R183, R190): what a push and a pop
make of the list of events held, read off the lemmas of Laws/Queue.lean.
-/

namespace Sys2Proof.Proofs

open Sys2Proof.Machine Sys2Proof.Laws

/-- The low `n` bits of an integer are its remainder modulo `2 ^ n`. -/
theorem ofInt_eq_ofNat_emod (n : Nat) (z : Int) : BitVec.ofInt n z = BitVec.ofNat n (z % 2 ^ n).toNat := by
  rw [← BitVec.ofInt_natCast, Int.toNat_of_nonneg (Int.emod_nonneg z (by positivity))]
  apply BitVec.eq_of_toInt_eq
  simpa using (Int.emod_bmod z (2 ^ n)).symm

/-- The narrowing of a push keeps the low bits of its operands (R181). -/
theorem narrowEvent_eq_narrowed (m a v d : Int) : narrowEvent m a v d = narrowed m a v d := by
  simp only [narrowEvent, ofInt_eq_ofNat_emod]
  rfl

/-- A push answers true and leaves the queue of `push` (R181). -/
theorem exec_push (m a v d : Int) (s : State) :
    exec (.push m a v d) s = .next (answer (.bool true) (push (narrowEvent m a v d) s)) := rfl

/-- A pop of a queue with events answers the oldest (R183). -/
theorem exec_pop_of_pos {s : State} (h : 0 < s.queue.count) :
    exec .pop s = .next (answer (.event (some (headEvent s))) (popHead s)) :=
  if_neg h.ne'

/-- Answering on the port leaves the events held. -/
@[simp] theorem heldEvents_answer (r : PortValue) (s : State) : heldEvents (answer r s) = heldEvents s :=
  heldEvents_congr (by simp) (by simp)

/-- A push into a full ring appends to what `drop_oldest` leaves (R181, R190). -/
theorem heldEvents_push_full (e : Event) {s : State} (q : QueueOk s) (hpos : 0 < s.queue.count)
    (h : s.queue.count = s.cfg.queueCap) : heldEvents (push e s) = heldEvents (dropOldest s) ++ [e] := by
  have hcount : (dropOldest s).queue.count < (dropOldest s).cfg.queueCap := by
    rw [(dropOldest_regs s).2.2.1, (dropOldest_frame s).1]
    omega
  rw [push_full e s h, heldEvents_flowUpdate,
    heldEvents_storeTail e _ hcount (queueOk_dropOldest s q hpos).tail_eq]

/-- Two events or more held: the oldest, the next, and the others. -/
theorem heldEvents_eq_cons_cons {s : State} (h : 2 ≤ s.queue.count) : ∃ old new es, heldEvents s = old :: new :: es := by
  have hlen := heldEvents_length s
  match hs : heldEvents s with
  | [] | [_] => simp [hs] at hlen; omega
  | old :: new :: es => exact ⟨old, new, es, rfl⟩

/-- Settles O37: a push appends, into a full ring after the oldest event has gone into the next one's delta, and a pop takes the
oldest. -/
theorem queueKeepsOrder : Obligations.QueueKeepsOrder := by
  intro s q hcap
  refine ⟨heldEvents_length s, fun m a v d hroom => ?room, fun m a v d hfull => ?full, fun hpos => ?pop⟩
  case room =>
    refine ⟨_, exec_push m a v d s, ?_⟩
    rw [heldEvents_answer, heldEvents_push _ s q hroom, narrowEvent_eq_narrowed]
  case full =>
    have hpos : 0 < s.queue.count := by omega
    obtain ⟨old, new, es, hheld⟩ := heldEvents_eq_cons_cons (s := s) (by omega)
    have hold : headEvent s = old := by
      obtain ⟨rest, hcons⟩ := heldEvents_cons s hpos q.head_lt
      exact (List.cons.inj (hcons.symm.trans hheld)).1
    refine ⟨_, old, new, es, exec_push m a v d s, hheld, ?_⟩
    rw [heldEvents_answer, heldEvents_push_full _ q hpos hfull, heldEvents_dropOldest s hpos q.head_lt q.count_le,
      hheld, hold, narrowEvent_eq_narrowed]
    rfl
  case pop =>
    refine ⟨_, headEvent s, exec_pop_of_pos hpos, rfl, ?_⟩
    rw [heldEvents_answer]
    exact heldEvents_popHead s hpos q.head_lt

end Sys2Proof.Proofs
end

section
/-!
PROOFS. What the SID cells answer, and where a sample puts it (spec/40_sid_cell.md R74, R123, R129 to R131; spec/41_scheduler.md
R140, R146, R147; spec/42_sample_pump.md R167): the reads of a cell, the frame of a sample, and the frame PUMP_RENDER writes.
-/

namespace Sys2Proof.Proofs

open Sys2Proof.Machine Sys2Proof.Laws

/-! ### Reading a cell -/

/-- `output()` answers the output the cell has (R123). -/
theorem exec_sidOutput (c : CellId) (s : State) :
    exec (.sidOutput c) s = .next (answer (.word (outputNow s c)) (callCell c .output s)) := rfl

/-- `read_state()` answers the snapshot of the cell (R129). -/
theorem exec_sidReadState (c : CellId) (s : State) :
    exec (.sidReadState c) s = .next (answer (.cellState (stateNow s c)) (callCell c .readState s)) := rfl

/-- `write` is recorded on the cell (R121). -/
theorem exec_sidWrite (c : CellId) (a : SidAddr) (v : Byte) (s : State) :
    exec (.sidWrite c a v) s = .next (callCell c (.write a v) s) := rfl

/-- `clock` of a cycle or more is recorded on the cell (R122). -/
theorem exec_sidClock_of_ne {n : Word32} (c : CellId) (s : State) (h : n ≠ 0) :
    exec (.sidClock c n) s = .next (callCell c (.clock n.toNat) s) := if_neg h

/-- `reset` is recorded on the cell (R125). -/
theorem exec_sidReset (c : CellId) (s : State) : exec (.sidReset c) s = .next (callCell c .reset s) := rfl

/-- Answering on the port leaves the cells. -/
@[simp] theorem cellOf_answer (c : CellId) (r : PortValue) (s : State) : cellOf (answer r s) c = cellOf s c := by
  cases c <;> rfl

/-- A call is the last in the trace of its cell (R40). -/
@[simp] theorem cellOf_callCell_same (c : CellId) (k : CellCall) (s : State) :
    cellOf (callCell c k s) c = { cellOf s c with trace := (cellOf s c).trace ++ [k] } := by
  cases c <;> rfl

/-- A call on one cell leaves the other (R130). -/
theorem cellOf_callCell_other {c d : CellId} (h : d ≠ c) (k : CellCall) (s : State) :
    cellOf (callCell d k s) c = cellOf s c := by
  cases c with
  | a => cases d with
    | a => exact absurd rfl h
    | b => rfl
  | b => cases d with
    | a => rfl
    | b => exact absurd rfl h

/-- No call on a cell sets the mock's output (R131). -/
@[simp] theorem cellOf_callCell_out (c d : CellId) (k : CellCall) (s : State) :
    (cellOf (callCell d k s) c).out = (cellOf s c).out := by
  cases c <;> cases d <;> rfl

/-- A call that changes no cell, or that is on the other cell, leaves the history of a cell as it was (R74, R130). -/
theorem cellHistory_callCell {c d : CellId} {k : CellCall} (h : d ≠ c ∨ changesCell k = false) (s : State) :
    cellHistory (cellOf (callCell d k s) c).trace = cellHistory (cellOf s c).trace := by
  by_cases hd : d = c
  · subst hd
    have hread : changesCell k = false := h.resolve_left (absurd rfl)
    simp [cellHistory, hread]
  · rw [cellOf_callCell_other hd]

/-- A call that does not change a cell does not change the mock (R74, R131). -/
theorem mockStep_of_not_changesCell {k : CellCall} (h : changesCell k = false) (m : MockCell) : mockStep m k = m := by
  cases k with
  | output | readState => rfl
  | _ => cases h

/-- The mock after one call more. -/
theorem mockOf_append_one (trace : List CellCall) (k : CellCall) : mockOf (trace ++ [k]) = mockStep (mockOf trace) k := by
  simp [mockOf]

/-- The mock is determined by its history, as an external cell is (R120, R131). -/
theorem mockOf_cellHistory (trace : List CellCall) : mockOf (cellHistory trace) = mockOf trace := by
  induction trace using List.reverseRecOn with
  | nil => rfl
  | append_singleton trace k ih =>
    rw [mockOf_append_one, ← ih]
    cases hk : changesCell k with
    | true => rw [← mockOf_append_one]; simp [cellHistory, hk]
    | false => rw [mockStep_of_not_changesCell hk]; simp [cellHistory, hk]

/-- Two states of a cell with the same history and output give the same results. -/
theorem reads_congr {s t : State} {c : CellId} (hcfg : t.cfg = s.cfg) (hout : (cellOf t c).out = (cellOf s c).out)
    (hhist : cellHistory (cellOf t c).trace = cellHistory (cellOf s c).trace) :
    outputNow t c = outputNow s c ∧ stateNow t c = stateNow s c := by
  have hmock : mockOf (cellOf t c).trace = mockOf (cellOf s c).trace := by
    rw [← mockOf_cellHistory, hhist, mockOf_cellHistory]
  constructor
  · rw [outputNow, outputNow, cellOutputOf, cellOutputOf, hcfg, hout, hhist]
  · rw [stateNow, stateNow, cellStateOf, cellStateOf, hcfg, hmock, hhist]

/-- Answering on the port does not show in the results of a cell. -/
@[simp] theorem reads_answer (c : CellId) (r : PortValue) (s : State) :
    outputNow (answer r s) c = outputNow s c ∧ stateNow (answer r s) c = stateNow s c :=
  reads_congr (by simp) (by simp) (by simp)

/-- A read, or a call on the other cell, does not show in the results of a cell (R74, R130). -/
theorem reads_callCell {c d : CellId} {k : CellCall} (h : d ≠ c ∨ changesCell k = false) (s : State) :
    outputNow (callCell d k s) c = outputNow s c ∧ stateNow (callCell d k s) c = stateNow s c :=
  reads_congr (by simp) (by simp) (cellHistory_callCell h s)

/-- `output()` does not show in the results of a cell (R74). -/
@[simp] theorem reads_output (c d : CellId) (s : State) :
    outputNow (callCell d .output s) c = outputNow s c ∧ stateNow (callCell d .output s) c = stateNow s c :=
  reads_callCell (.inr rfl) s

/-- `read_state()` does not show in the results of a cell (R74). -/
@[simp] theorem reads_readState (c d : CellId) (s : State) :
    outputNow (callCell d .readState s) c = outputNow s c ∧ stateNow (callCell d .readState s) c = stateNow s c :=
  reads_callCell (.inr rfl) s

/-! ### The mock cell -/

/-- A mock answers its settable output (R131). -/
theorem outputNow_of_mock {s : State} (hm : s.cfg.mockCells = true) (c : CellId) : outputNow s c = (cellOf s c).out :=
  if_pos hm

/-- A mock shows its own registers (R131). -/
theorem sidRegister_of_mock {s : State} (hm : s.cfg.mockCells = true) (c : CellId) :
    (stateNow s c).sidRegister = (mockOf (cellOf s c).trace).regs := if_pos hm

/-- The registers of a mock after one call more (R131). -/
theorem sidRegister_callCell_of_mock {s : State} (hm : s.cfg.mockCells = true) (c : CellId) (k : CellCall) :
    (stateNow (callCell c k s) c).sidRegister = (mockStep (mockOf (cellOf s c).trace) k).regs := by
  rw [sidRegister_of_mock (by simpa using hm), cellOf_callCell_same, mockOf_append_one]

/-- A write sets the register of its address in a mock and leaves the others (R131). -/
theorem sidRegister_write_of_mock {s : State} (hm : s.cfg.mockCells = true) (c : CellId) (a : SidAddr) (v : Byte) :
    (stateNow (callCell c (.write a v) s) c).sidRegister = (stateNow s c).sidRegister.set a.toNat v := by
  rw [sidRegister_callCell_of_mock hm, sidRegister_of_mock hm]
  rfl

/-- Clocking a mock leaves its registers (R131). -/
theorem sidRegister_clock_of_mock {s : State} (hm : s.cfg.mockCells = true) (c : CellId) (n : Nat) :
    (stateNow (callCell c (.clock n) s) c).sidRegister = (stateNow s c).sidRegister := by
  rw [sidRegister_callCell_of_mock hm, sidRegister_of_mock hm]
  rfl

/-- A reset clears the registers of a mock (R131). -/
theorem sidRegister_reset_of_mock {s : State} (hm : s.cfg.mockCells = true) (c : CellId) :
    (stateNow (callCell c .reset s) c).sidRegister = List.replicate 32 0 := by
  rw [sidRegister_callCell_of_mock hm]
  rfl

/-- Settles O47: neither reads nor a write on the other cell show in what a cell answers, and the mock's registers follow the
calls. -/
theorem cellResultsRepeatAndMockStores : Obligations.CellResultsRepeatAndMockStores := by
  intro s c c' a v hother
  constructor
  · have hwrite := reads_callCell (k := .write a v) (.inl hother)
    refine ⟨_, _, _, _, _, outputNow s c, stateNow s c, exec_sidOutput c _, rfl, exec_sidReadState c _, ?_,
      exec_sidWrite c' a v _, exec_sidOutput c _, ?_, exec_sidReadState c _, ?_, fun hm => outputNow_of_mock hm c⟩ <;>
      simp [hwrite]
  · intro hm
    refine ⟨_, _, _, _, _, _, _, _, _, _, _, exec_sidReadState c _, rfl, exec_sidWrite c a v _, exec_sidReadState c _, rfl,
      ?_, exec_sidClock_of_ne c _ (by decide), exec_sidReadState c _, rfl, ?_, exec_sidReset c _, exec_sidReadState c _,
      rfl, ?_⟩
    · rw [sidRegister_write_of_mock (by simpa using hm)]
      simp
    · rw [sidRegister_clock_of_mock (by simpa using hm)]
      simp
    · rw [sidRegister_reset_of_mock (by simpa using hm)]

/-! ### The frame of a sample -/

/-- Saturation to 16 bits is a clamp (R147). -/
theorem sat16_eq_clamp (z : Int) : sat16 z = BitVec.ofInt 16 (max (-32768) (min 32767 z)) := by
  unfold sat16
  congr 1
  split_ifs <;> omega

/-- `gain` answers the gained sample and changes nothing (R146). -/
theorem exec_gain (o : Word32) (s : State) : exec (.gain o) s = .next { s with ret := .int (gainOf s.cfg o) } := rfl

/-- A sample reads the two outputs once the cells are advanced, and answers their frame (R140, R141). -/
theorem exec_renderSample (s : State) :
    exec .renderSample s = .next (answer (.frame (sampleFrame s)) (renderSample s)) := rfl

/-- The frame of a sample, each side gained and clamped (R140, R147). -/
theorem sampleFrame_eq_clamp (s : State) :
    sampleFrame s =
      { left := BitVec.ofInt 16 (max (-32768) (min 32767 (gainOf s.cfg (outputNow (advanceSample s) .a))))
        right := BitVec.ofInt 16 (max (-32768) (min 32767 (gainOf s.cfg (outputNow (advanceSample s) .b)))) } := by
  rw [sampleFrame, frameOf, sat16_eq_clamp, sat16_eq_clamp]

/-- Settles O39: the outputs are read of the advanced cells, and reading cell 0 does not show on cell 1. -/
theorem renderFrameIsGainedOutput : Obligations.RenderFrameIsGainedOutput := by
  intro s
  refine ⟨advanceSample s, _, _, outputNow (advanceSample s) .a, outputNow (advanceSample s) .b, _, _, exec_sidOutput .a _,
    rfl, exec_sidOutput .b _, by simp, exec_gain _ s, exec_gain _ s, ?_⟩
  rw [exec_renderSample, sampleFrame_eq_clamp]
  rfl

/-! ### The frame the pump writes -/

/-- PUMP_RENDER is `pumpRender` (R167). -/
theorem exec_pumpRender (s : State) : exec .pumpRender s = .next (pumpRender s) := rfl

/-- An active pump with room in its buffer puts the frame of a sample at its place (R167). -/
theorem pumpRender_of_active {s : State} (ha : s.pump.active = true) (hi : s.pump.idx < s.cfg.frames) :
    pumpRender s = { renderSample s with
      pump := { s.pump with idx := s.pump.idx + 1 }
      pool := { s.pool with
        audio := memWrite s.pool.audio (audioAddr s.cfg s.pump.buf s.pump.idx) (sampleFrame s) } } := by
  unfold pumpRender
  rw [if_pos (by simp [ha, hi])]
  simp

/-- A pump with no buffer or a full one waits (R167). -/
theorem pumpRender_of_waiting {s : State} (h : s.pump.active = false ∨ s.cfg.frames ≤ s.pump.idx) : pumpRender s = s := by
  rcases pumpRender_cases s with e | ⟨ha, hi, -⟩
  · exact e
  · rcases h with h | h
    · rw [ha] at h
      cases h
    · omega

/-- Settles O49: the frame of the sample is written at the pump's place and nowhere else, or the pump waits. -/
theorem pumpRenderCompletes : Obligations.PumpRenderCompletes := by
  intro s
  refine ⟨fun ha hi => ?renders, fun h => ?waits⟩
  case renders =>
    refine ⟨_, _, sampleFrame s, exec_renderSample s, rfl, exec_pumpRender s, ?_⟩
    rw [pumpRender_of_active ha hi]
    refine ⟨memRead_memWrite_same _ _ _, fun k hk => memRead_memWrite_other _ _ hk, ?_⟩
    apply State.ext <;> simp
  case waits => rw [exec_pumpRender, pumpRender_of_waiting h]

end Sys2Proof.Proofs
end

section
/-!
PROOFS. The wire's encodings (spec/30_encoding.md R86 to R104): what the bytes of each format decode to, which bytes each class
of header, command and record has, and from these the two round trips and the operands field by field.
-/

namespace Sys2Proof.Proofs

open Sys2Proof.Machine Sys2Proof.Laws

/-! ### Byte lists by their length -/

theorem exists_two_of_length {bs : List Byte} (h : 2 ≤ bs.length) :
    ∃ b0 b1 r, bs = b0 :: b1 :: r ∧ r.length + 2 = bs.length := by
  obtain _ | ⟨b0, _ | ⟨b1, r⟩⟩ := bs
  · simp at h
  · simp at h
  · exact ⟨b0, b1, r, rfl, rfl⟩

theorem exists_four_of_length {bs : List Byte} (h : 4 ≤ bs.length) :
    ∃ b0 b1 b2 b3 r, bs = b0 :: b1 :: b2 :: b3 :: r ∧ r.length + 4 = bs.length := by
  obtain ⟨b0, b1, r, rfl, hr⟩ := exists_two_of_length (bs := bs) (by omega)
  obtain ⟨b2, b3, r, rfl, hr'⟩ := exists_two_of_length (bs := r) (by omega)
  exact ⟨b0, b1, b2, b3, r, rfl, rfl⟩

/-! ### The classes of a header's count -/

/-- The classes of R89 leave no count out. -/
theorem count_classes (n : Nat) : n = cmdSentinel ∨ n < maxCount ∨ n = maxCount ∨ oversizedCount n = true := by
  rw [oversizedCount_iff]
  simp only [cmdSentinel, maxCount]
  omega

theorem classifyHdr12_of_toNat_sentinel {c : Word32} (f : Word32) (h : c.toNat = cmdSentinel) :
    classifyHdr12 c f = .hdr12Command f := by
  have hc : c = 0xFFFF := BitVec.eq_of_toNat_eq h
  rw [hc, classifyHdr12_command]

theorem classifyHdr12_of_toNat_max {c : Word32} (f : Word32) (h : c.toNat = maxCount) :
    classifyHdr12 c f = .hdr12EventsMax f := by
  have hc : c = 8192 := BitVec.eq_of_toNat_eq h
  rw [hc, classifyHdr12_max]

theorem classifyHdr10_of_toNat_sentinel {c : BitVec 16} (f : Word32) (h : c.toNat = cmdSentinel) :
    classifyHdr10 c f = .hdr10Command f := by
  have hc : c = 0xFFFF := BitVec.eq_of_toNat_eq h
  rw [hc, classifyHdr10_command]

theorem classifyHdr10_of_toNat_max {c : BitVec 16} (f : Word32) (h : c.toNat = maxCount) :
    classifyHdr10 c f = .hdr10EventsMax f := by
  have hc : c = 8192 := BitVec.eq_of_toNat_eq h
  rw [hc, classifyHdr10_max]

/-- Widening a 13-bit count loses nothing. -/
theorem setWidth_setWidth_count {n : Nat} (c : BitVec 13) (h : 13 ≤ n) : (c.setWidth n).setWidth 13 = c := by
  rw [BitVec.setWidth_setWidth_of_le _ h, BitVec.setWidth_eq]

/-- Narrowing a count below 8192 to 13 bits loses nothing. -/
theorem setWidth_count_setWidth {n : Nat} (c : BitVec n) (h : c.toNat < 8192) (m : Nat) :
    (c.setWidth 13).setWidth m = c.setWidth m := by
  apply BitVec.eq_of_toNat_eq
  rw [BitVec.toNat_setWidth, BitVec.toNat_setWidth, Nat.mod_eq_of_lt h, BitVec.toNat_setWidth]

/-! ### What the bytes of a format decode to -/

theorem decode_hdr12_bytes (c f : Word32) (r : List Byte) :
    decode .hdr12 (magic ++ wordBytes c ++ wordBytes f ++ r) = .ok (classifyHdr12 c f) := by
  conv => rhs; rw [← u32le_wordBytes c, ← u32le_wordBytes f]
  exact decodeHdr12_magic _ _ _ _ _ _ _ _ _ _ _ _ r rfl

theorem decode_hdr10_bytes (c : BitVec 16) (f : Word32) (r : List Byte) :
    decode .hdr10 (magic ++ halfBytes c ++ wordBytes f ++ r) = .ok (classifyHdr10 c f) := by
  conv => rhs; rw [← u16le_halfBytes c, ← u32le_wordBytes f]
  exact decodeHdr10_magic _ _ _ _ _ _ _ _ _ _ r rfl

theorem decode_ev6_bytes (a v : Byte) (d : Word32) (r : List Byte) :
    decode .ev6 (a :: v :: wordBytes d ++ r) = .ok (.ev6 (addrIgnored a) (addrField a) v d) := by
  conv => rhs; rw [← u32le_wordBytes d]
  rfl

theorem decode_ev8_bytes (ch a v pad : Byte) (d : Word32) (r : List Byte) :
    decode .ev8 (ch :: a :: v :: pad :: wordBytes d ++ r) =
      .ok (.ev8 (chipIgnored ch) (chipField ch) (addrIgnored a) (addrField a) v pad d) := by
  conv => rhs; rw [← u32le_wordBytes d]
  rfl

theorem decode_cmd_bytes (op p0 p1 p2 : Byte) (r : List Byte) :
    decode .cmd (op :: p0 :: p1 :: p2 :: r) = .ok (classifyCommand op p0 p1 p2) := rfl

/-- Settles O1: each class of unit, from what the bytes of its format decode to. -/
theorem decodeOfEncode : Obligations.DecodeOfEncode := by
  intro i fmt r hw hf
  cases i with
  | scanMatch => cases hf; exact decodeWindow4_match _ _ _ _ r rfl
  | scanMiss b0 b1 b2 b3 => cases hf; exact decodeWindow4_miss _ _ _ _ r ((scanMiss_wellFormed _ _ _ _).1 hw)
  | hdr12Events c f =>
    cases hf
    have := decode_hdr12_bytes (c.setWidth 32) f r
    rwa [classifyHdr12_events _ f (count13_lt c (by decide)), setWidth_setWidth_count c (by decide)] at this
  | hdr12EventsMax f => cases hf; exact (decode_hdr12_bytes _ f r).trans (congrArg _ (classifyHdr12_max f))
  | hdr12Command f => cases hf; exact (decode_hdr12_bytes _ f r).trans (congrArg _ (classifyHdr12_command f))
  | hdr12Oversized c f => cases hf; exact (decode_hdr12_bytes c f r).trans (congrArg _ (classifyHdr12_oversized c f hw))
  | hdr10Events c f =>
    cases hf
    have := decode_hdr10_bytes (c.setWidth 16) f r
    rwa [classifyHdr10_events _ f (count13_lt c (by decide)), setWidth_setWidth_count c (by decide)] at this
  | hdr10EventsMax f => cases hf; exact (decode_hdr10_bytes _ f r).trans (congrArg _ (classifyHdr10_max f))
  | hdr10Command f => cases hf; exact (decode_hdr10_bytes _ f r).trans (congrArg _ (classifyHdr10_command f))
  | hdr10Oversized c f => cases hf; exact (decode_hdr10_bytes c f r).trans (congrArg _ (classifyHdr10_oversized c f hw))
  | ev6 hi a v d =>
    cases hf
    have := decode_ev6_bytes (hi ++ a) v d r
    rwa [addrIgnored_append, addrField_append] at this
  | ev8 chHi ch hi a v pad d =>
    cases hf
    have := decode_ev8_bytes (chHi ++ ch) (hi ++ a) v pad d r
    rwa [addrIgnored_append, addrField_append, chipIgnored_append, chipField_append] at this
  | cmdCycleMode | cmdSetVoiceMask | cmdSetFilter => cases hf; rfl
  | cmdUnknown op p0 p1 p2 =>
    cases hf
    exact (decode_cmd_bytes op p0 p1 p2 r).trans (congrArg _ (classifyCommand_unknown op p0 p1 p2 hw))
  | readyLine => cases hf; rfl
  | _ => cases hf

/-! ### Which bytes a decoded unit has -/

/-- A classified 12-byte header is a unit with the bytes of its count and its frame (R86, R89). -/
theorem classifyHdr12_encode (c f : Word32) :
    (classifyHdr12 c f).wellFormed = true ∧ (classifyHdr12 c f).encode = magic ++ wordBytes c ++ wordBytes f := by
  rcases count_classes c.toNat with h | h | h | h
  · obtain rfl : c = 0xFFFF := BitVec.eq_of_toNat_eq h
    rw [classifyHdr12_command]
    exact ⟨rfl, rfl⟩
  · rw [classifyHdr12_events c f h]
    exact ⟨rfl, by rw [Instr.encode, setWidth_count_setWidth c h, BitVec.setWidth_eq]⟩
  · obtain rfl : c = 8192 := BitVec.eq_of_toNat_eq h
    rw [classifyHdr12_max]
    exact ⟨rfl, rfl⟩
  · rw [classifyHdr12_oversized c f h]
    exact ⟨h, rfl⟩

/-- A classified 10-byte header is a unit with the bytes of its count and its frame (R87, R89). -/
theorem classifyHdr10_encode (c : BitVec 16) (f : Word32) :
    (classifyHdr10 c f).wellFormed = true ∧ (classifyHdr10 c f).encode = magic ++ halfBytes c ++ wordBytes f := by
  rcases count_classes c.toNat with h | h | h | h
  · obtain rfl : c = 0xFFFF := BitVec.eq_of_toNat_eq h
    rw [classifyHdr10_command]
    exact ⟨rfl, rfl⟩
  · rw [classifyHdr10_events c f h]
    exact ⟨rfl, by rw [Instr.encode, setWidth_count_setWidth c h, BitVec.setWidth_eq]⟩
  · obtain rfl : c = 8192 := BitVec.eq_of_toNat_eq h
    rw [classifyHdr10_max]
    exact ⟨rfl, rfl⟩
  · rw [classifyHdr10_oversized c f h]
    exact ⟨h, rfl⟩

/-- A classified command is a unit with its own four bytes (R95, R96). -/
theorem classifyCommand_encode (op p0 p1 p2 : Byte) :
    (classifyCommand op p0 p1 p2).wellFormed = true ∧ (classifyCommand op p0 p1 p2).encode = [op, p0, p1, p2] := by
  unfold classifyCommand
  split_ifs with h1 h2 h3
  · exact ⟨rfl, by rw [h1]; rfl⟩
  · exact ⟨rfl, by rw [h2]; rfl⟩
  · exact ⟨rfl, by rw [h3]; rfl⟩
  · exact ⟨(unknownOpcode_iff op).2 ⟨h1, h2, h3⟩, rfl⟩

/-- A decoded unit is well formed and has the bytes it was read from (R101, R104). -/
theorem encode_of_decode {fmt : Format} {bs : List Byte} {i : Instr} (h : decode fmt bs = .ok i) :
    i.wellFormed = true ∧ i.encode = bs.take fmt.len := by
  cases fmt with
  | window4 =>
    simp only [decode, decodeWindow4] at h
    split at h <;> cases h
    split_ifs with hm
    · exact ⟨rfl, hm.symm⟩
    · exact ⟨(scanMiss_wellFormed _ _ _ _).2 hm, rfl⟩
  | hdr12 =>
    simp only [decode, decodeHdr12] at h
    split at h
    · rename_i m0 m1 m2 m3 c0 c1 c2 c3 f0 f1 f2 f3 r
      split_ifs at h with hm
      cases h
      obtain ⟨hwf, henc⟩ := classifyHdr12_encode (u32le c0 c1 c2 c3) (u32le f0 f1 f2 f3)
      refine ⟨hwf, henc.trans ?_⟩
      rw [wordBytes_u32le, wordBytes_u32le, ← hm]
      rfl
    · cases h
  | hdr10 =>
    simp only [decode, decodeHdr10] at h
    split at h
    · rename_i m0 m1 m2 m3 c0 c1 f0 f1 f2 f3 r
      split_ifs at h with hm
      cases h
      obtain ⟨hwf, henc⟩ := classifyHdr10_encode (u16le c0 c1) (u32le f0 f1 f2 f3)
      refine ⟨hwf, henc.trans ?_⟩
      rw [halfBytes_u16le, wordBytes_u32le, ← hm]
      rfl
    · cases h
  | ev6 =>
    simp only [decode, decodeEv6] at h
    split at h <;> cases h
    refine ⟨rfl, ?_⟩
    rw [Instr.encode, addr_byte, wordBytes_u32le]
    rfl
  | ev8 =>
    simp only [decode, decodeEv8] at h
    split at h <;> cases h
    refine ⟨rfl, ?_⟩
    rw [Instr.encode, chip_byte, addr_byte, wordBytes_u32le]
    rfl
  | cmd =>
    simp only [decode, decodeCmd] at h
    split at h <;> cases h
    exact classifyCommand_encode _ _ _ _
  | ready =>
    simp only [decode, decodeReady] at h
    split_ifs at h with hl hr
    cases h
    exact ⟨rfl, hr.symm⟩

/-- Settles O2: format by format, the bytes of the class that was decoded. -/
theorem encodeOfDecode : Obligations.EncodeOfDecode := by
  intro fmt bs i h
  obtain ⟨hwf, henc⟩ := encode_of_decode h
  exact ⟨hwf, format_of_decode h, henc⟩

/-! ### Bytes that are a unit, and bytes that are none -/

/-- Too few bytes are no unit of any format (R200). -/
theorem decode_of_short {fmt : Format} {bs : List Byte} (h : bs.length < fmt.len) :
    decode fmt bs = .error (.tooShort fmt) := by
  cases fmt with
  | ready => exact if_pos h
  | window4 | hdr12 | hdr10 | ev6 | ev8 | cmd =>
    simp only [decode, decodeWindow4, decodeHdr12, decodeHdr10, decodeEv6, decodeEv8, decodeCmd]
    split
    · simp only [List.length_cons, Format.len, cmdLen] at h
      omega
    · rfl

/-- Four bytes are a window: the magic matches, anything else misses (R204). -/
theorem decode_window4_of_length {bs : List Byte} (h : 4 ≤ bs.length) :
    decode .window4 bs = .ok (if bs.take 4 = magic then .scanMatch else
      .scanMiss (byteAt bs 0) (byteAt bs 1) (byteAt bs 2) (byteAt bs 3)) := by
  obtain ⟨b0, b1, b2, b3, r, rfl, -⟩ := exists_four_of_length h
  rfl

/-- Twelve bytes are the header of their count and frame where they begin with the magic, and none elsewhere (R86, R99). -/
theorem decode_hdr12_of_length {bs : List Byte} (h : 12 ≤ bs.length) :
    decode .hdr12 bs =
      if bs.take 4 = magic then .ok (classifyHdr12 (wordAt bs 4) (wordAt bs 8)) else .error .noMagic := by
  obtain ⟨m0, m1, m2, m3, r, rfl, hr⟩ := exists_four_of_length (bs := bs) (by omega)
  obtain ⟨c0, c1, c2, c3, r, rfl, hr'⟩ := exists_four_of_length (bs := r) (by omega)
  obtain ⟨f0, f1, f2, f3, r, rfl, -⟩ := exists_four_of_length (bs := r) (by omega)
  rfl

/-- Ten bytes are the header of their count and frame where they begin with the magic, and none elsewhere (R87, R99). -/
theorem decode_hdr10_of_length {bs : List Byte} (h : 10 ≤ bs.length) :
    decode .hdr10 bs =
      if bs.take 4 = magic then .ok (classifyHdr10 (halfAt bs 4) (wordAt bs 6)) else .error .noMagic := by
  obtain ⟨m0, m1, m2, m3, r, rfl, hr⟩ := exists_four_of_length (bs := bs) (by omega)
  obtain ⟨c0, c1, r, rfl, hr'⟩ := exists_two_of_length (bs := r) (by omega)
  obtain ⟨f0, f1, f2, f3, r, rfl, -⟩ := exists_four_of_length (bs := r) (by omega)
  rfl

/-- Six bytes are a record without a chip mask (R91). -/
theorem decode_ev6_of_length {bs : List Byte} (h : 6 ≤ bs.length) :
    decode .ev6 bs = .ok (.ev6 (addrIgnored (byteAt bs 0)) (addrField (byteAt bs 0))
      (byteAt bs 1) (wordAt bs 2)) := by
  obtain ⟨a, v, r, rfl, hr⟩ := exists_two_of_length (bs := bs) (by omega)
  obtain ⟨d0, d1, d2, d3, r, rfl, -⟩ := exists_four_of_length (bs := r) (by omega)
  rfl

/-- Eight bytes are a record with a chip mask (R92). -/
theorem decode_ev8_of_length {bs : List Byte} (h : 8 ≤ bs.length) :
    decode .ev8 bs = .ok (.ev8 (chipIgnored (byteAt bs 0)) (chipField (byteAt bs 0))
      (addrIgnored (byteAt bs 1)) (addrField (byteAt bs 1)) (byteAt bs 2) (byteAt bs 3)
      (wordAt bs 4)) := by
  obtain ⟨ch, a, v, pad, r, rfl, hr⟩ := exists_four_of_length (bs := bs) (by omega)
  obtain ⟨d0, d1, d2, d3, r, rfl, -⟩ := exists_four_of_length (bs := r) (by omega)
  rfl

/-- Four bytes are a command (R95). -/
theorem decode_cmd_of_length {bs : List Byte} (h : 4 ≤ bs.length) :
    decode .cmd bs = .ok (classifyCommand (byteAt bs 0) (byteAt bs 1) (byteAt bs 2)
      (byteAt bs 3)) := by
  obtain ⟨op, p0, p1, p2, r, rfl, -⟩ := exists_four_of_length h
  rfl

/-- Settles O3: enough bytes of each format, with and without the magic, and too few. -/
theorem everyPatternIsAUnit : Obligations.EveryPatternIsAUnit := by
  intro fmt bs hready
  refine ⟨decode_of_short, fun hlen h12 h10 => ?plain, fun hlen hhdr hm => ?header, fun hlen hhdr hm => ?noMagic⟩
  case plain =>
    cases fmt with
    | window4 => exact ⟨_, decode_window4_of_length hlen⟩
    | ev6 => exact ⟨_, decode_ev6_of_length hlen⟩
    | ev8 => exact ⟨_, decode_ev8_of_length hlen⟩
    | cmd => exact ⟨_, decode_cmd_of_length hlen⟩
    | hdr12 => exact absurd rfl h12
    | hdr10 => exact absurd rfl h10
    | ready => exact absurd rfl hready
  case header =>
    rcases hhdr with rfl | rfl
    · exact ⟨_, (decode_hdr12_of_length hlen).trans (if_pos hm)⟩
    · exact ⟨_, (decode_hdr10_of_length hlen).trans (if_pos hm)⟩
  case noMagic =>
    rcases hhdr with rfl | rfl
    · exact (decode_hdr12_of_length hlen).trans (if_neg hm)
    · exact (decode_hdr10_of_length hlen).trans (if_neg hm)

/-! ### The values of the fields -/

/-- The spec's little-endian sum is the value of the assembled u32 (R10). -/
theorem leValue_eq_toNat (b0 b1 b2 b3 : Byte) : leValue b0 b1 b2 b3 = (u32le b0 b1 b2 b3).toNat := by
  rw [u32le_toNat]
  unfold leValue
  omega

@[simp] theorem ofNat_leValue (b0 b1 b2 b3 : Byte) : BitVec.ofNat 32 (leValue b0 b1 b2 b3) = u32le b0 b1 b2 b3 := by
  rw [leValue_eq_toNat, BitVec.ofNat_toNat, BitVec.setWidth_eq]

/-- Settles O5: the four classes of R89 on each variant, its count and frame being the values of the bytes. -/
theorem headerFieldsAndClasses : Obligations.HeaderFieldsAndClasses := by
  intro c0 c1 c2 c3 f0 f1 f2 f3
  rw [ofNat_leValue, ofNat_leValue, leValue_eq_toNat c0, ← u16le_toNat]
  simp only [BitVec.ofNat_toNat, BitVec.setWidth_eq]
  refine ⟨⟨_, decodeHdr12_magic _ _ _ _ _ _ _ _ _ _ _ _ [] rfl, ?_, ?_, ?_, ?_⟩,
    ⟨_, decodeHdr10_magic _ _ _ _ _ _ _ _ _ _ [] rfl, ?_, ?_, ?_, ?_⟩⟩
  · exact classifyHdr12_of_toNat_sentinel _
  · exact classifyHdr12_events _ _
  · exact classifyHdr12_of_toNat_max _
  · exact fun h h' => classifyHdr12_oversized _ _ ((oversizedCount_iff _).2 ⟨h, h'⟩)
  · exact classifyHdr10_of_toNat_sentinel _
  · exact classifyHdr10_events _ _
  · exact classifyHdr10_of_toNat_max _
  · exact fun h h' => classifyHdr10_oversized _ _ ((oversizedCount_iff _).2 ⟨h, h'⟩)

/-- The bits of a byte from bit `k` up, as a quotient. -/
theorem extract_high_eq (b : Byte) (k n : Nat) : b.extractLsb' k n = BitVec.ofNat n (b.toNat / 2 ^ k) := by
  rw [BitVec.extractLsb', Nat.shiftRight_eq_div_pow]

/-- The low `n` bits of a byte, as a remainder. -/
theorem extract_low_eq (b : Byte) (n : Nat) : b.extractLsb' 0 n = BitVec.ofNat n (b.toNat % 2 ^ n) := by
  rw [extract_high_eq, Nat.pow_zero, Nat.div_one]
  exact BitVec.eq_of_toNat_eq (by simp)

/-- Settles O6: each field of a record is the quotient, the remainder or the sum that R94 gives. -/
theorem recordOperandsAssemble : Obligations.RecordOperandsAssemble := by
  intro b0 b1 b2 b3 b4 b5 b6 b7
  rw [ofNat_leValue, ofNat_leValue]
  refine ⟨(decode_ev6_of_length (by simp)).trans ?_, (decode_ev8_of_length (by simp)).trans ?_⟩
  · rw [addrIgnored, addrField, extract_high_eq, extract_low_eq]
    rfl
  · rw [addrIgnored, addrField, chipIgnored, chipField, extract_high_eq, extract_low_eq, extract_high_eq, extract_low_eq]
    rfl

/-- Settles O4: six closed words, by evaluation of the decoder. -/
theorem listedWordsDecode : Obligations.ListedWordsDecode := by
  unfold Obligations.ListedWordsDecode
  decide

end Sys2Proof.Proofs
end

section
/-!
PROOFS. The units from the host against the parser's operations (spec/44_frame_parser.md R200 to R207): where a unit's guard holds
it has its effect, elsewhere it waits, and the unit the parser fetches has the effect that the pseudocode gives.
-/

namespace Sys2Proof.Proofs

open Sys2Proof.Machine Sys2Proof.Laws

/-! ### Guards -/

theorem headerReady_iff (v : HdrVariant) (s : State) :
    headerReady v s = true ↔ s.cfg.hdr = v ∧ parserReady .readHeader s = true := by
  simp [headerReady]

theorem recordReady_iff (v : RecVariant) (s : State) :
    recordReady v s = true ↔ s.cfg.rcd = v ∧ parserReady .readEvents s = true := by
  simp [recordReady]

/-- A parser operation waits outside a streaming session, in another state, and without its bytes (R200). -/
theorem parserReady_eq_false {p : ParserState} {s : State}
    (h : s.sess ≠ .streaming ∨ s.parser.pstate ≠ p ∨ s.parser.buf.length < parserNeed s.cfg p) :
    parserReady p s = false := by
  rw [← Bool.not_eq_true, parserReady_iff]
  rintro ⟨hsess, hp, hneed⟩
  rcases h with h | h | h
  · exact h hsess
  · exact h hp
  · omega

/-- While the parser waits in its own state, no parser operation is enabled (R200). -/
theorem parserReady_of_waiting {s : State}
    (h : s.sess ≠ .streaming ∨ s.parser.buf.length < parserNeed s.cfg s.parser.pstate) (p : ParserState) :
    parserReady p s = false := by
  by_cases hp : s.parser.pstate = p
  · subst hp
    exact parserReady_eq_false (h.imp_right .inr)
  · exact parserReady_eq_false (.inr (.inl hp))

/-- The guard of the units of a format; of the two windows SCAN.MISS also runs in READ_HEADER (R104, R200, R205). -/
def formatReady (fmt : Format) (s : State) : Bool :=
  match fmt with
  | .window4 => parserReady .scanMagic s || parserReady .readHeader s
  | .hdr12 => headerReady .hdr12 s
  | .hdr10 => headerReady .hdr10 s
  | .ev6 => recordReady .ev6 s
  | .ev8 => recordReady .ev8 s
  | .cmd => parserReady .readCommand s
  | .ready => s.sess = .awaitingHandshake && s.usb.txReady

/-- An effect whose guard is false is none. -/
theorem next_ite_of_false {g : Bool} {s x : State} (h : g = false) : (.next (if g then x else s) : Outcome) = .next s := by
  rw [h]
  rfl

/-- Outside the handshake, or without transmit space, nothing is sent (R272). -/
theorem txReadyByte_of_waiting {s : State} (h : s.sess ≠ .awaitingHandshake ∨ s.usb.txReady = false) : txReadyByte s = s := by
  apply if_neg
  rw [Bool.and_eq_true, decide_eq_true_eq]
  rintro ⟨hsess, htx⟩
  rcases h with h | h
  · exact h hsess
  · exact absurd (htx.symm.trans h) (by decide)

theorem txReadyBytes_of_waiting {s : State} (h : s.sess ≠ .awaitingHandshake ∨ s.usb.txReady = false) (n : Nat) :
    txReadyBytes n s = s := by
  induction n with
  | zero => rfl
  | succ n ih => rw [txReadyBytes, txReadyByte_of_waiting h, ih]

/-- A unit whose format's guard is false changes nothing (R200, R272). -/
theorem exec_of_formatReady_false {i : Instr} {fmt : Format} {s : State} (hf : i.format = some fmt)
    (h : formatReady fmt s = false) : exec i s = .next s := by
  cases i with
  | scanMatch => cases hf; exact next_ite_of_false (Bool.or_eq_false_iff.1 h).1
  | readyLine =>
    cases hf
    have waiting : s.sess ≠ .awaitingHandshake ∨ s.usb.txReady = false := by
      simpa [formatReady, or_iff_not_imp_left] using h
    exact congrArg Host.Outcome.next (txReadyBytes_of_waiting waiting 14)
  | scanMiss | hdr12Events | hdr12EventsMax | hdr12Command | hdr12Oversized | hdr10Events | hdr10EventsMax | hdr10Command
  | hdr10Oversized | ev6 | ev8 | cmdCycleMode | cmdSetVoiceMask | cmdSetFilter | cmdUnknown =>
    cases hf
    exact next_ite_of_false h
  | _ => cases hf

/-- The units from the host wait for a streaming session and for the bytes of the parser's state (R200). -/
theorem formatReady_of_waiting {fmt : Format} {s : State} (hfmt : fmt ≠ .ready)
    (h : s.sess ≠ .streaming ∨ s.parser.buf.length < parserNeed s.cfg s.parser.pstate) : formatReady fmt s = false := by
  have waits := parserReady_of_waiting h
  cases fmt with
  | ready => exact absurd rfl hfmt
  | window4 | hdr12 | hdr10 | ev6 | ev8 | cmd => simp [formatReady, headerReady, recordReady, waits]

theorem headerReady_eq_false {v : HdrVariant} {s : State} (h : s.parser.pstate ≠ .readHeader ∨ s.cfg.hdr ≠ v) :
    headerReady v s = false := by
  rcases h with h | h
  · simp [headerReady, parserReady_eq_false (.inr (.inl h))]
  · simp [headerReady, h]

theorem recordReady_eq_false {v : RecVariant} {s : State} (h : s.parser.pstate ≠ .readEvents ∨ s.cfg.rcd ≠ v) :
    recordReady v s = false := by
  rcases h with h | h
  · simp [recordReady, parserReady_eq_false (.inr (.inl h))]
  · simp [recordReady, h]

/-- The effect of the parser's step in each of its states (R204 to R207). -/
def parserEffect (p : ParserState) (s : State) : State :=
  match p with
  | .scanMagic => scanStep s
  | .readHeader => headerStep s
  | .readEvents => recordStep s
  | .readCommand => commandStep s

/-- A parser operation has its step's effect where it is enabled, and none elsewhere (R200, R204 to R207). -/
theorem exec_parserOp (p : ParserState) (s : State) :
    exec (parserOp p) s = .next (if parserReady p s then parserEffect p s else s) := by
  cases p <;> rfl

/-- `PULL` waits while its guard is false or the transport holds nothing (R201, R211). -/
theorem exec_pull_of_waiting {s : State} (h : s.usb.rx = [] ∨ pullAllowed s = false) : exec .pull s = .next s := by
  show execPull s = _
  unfold execPull
  split
  · rfl
  · rename_i hrx
    rcases h with h | h
    · rw [h] at hrx
      cases hrx
    · exact next_ite_of_false h

/-- Settles O16: each operation's guard is false in the case named. -/
theorem disabledOperationsWait : Obligations.DisabledOperationsWait := by
  intro s
  refine ⟨fun i fmt hf hfmt h => ?unit, fun h => ?scanMatch, fun b0 b1 b2 b3 h h' => ?scanMiss, fun i hf h => ?hdr12,
    fun i hf h => ?hdr10, fun i hf h => ?ev6, fun i hf h => ?ev8, fun i hf h => ?cmd, fun p h => ?parserOp,
    fun h => ?readyLine, fun h => ?pull⟩
  case unit => exact exec_of_formatReady_false hf (formatReady_of_waiting hfmt h)
  case scanMatch => exact next_ite_of_false (parserReady_eq_false (.inr (.inl h)))
  case scanMiss =>
    exact exec_of_formatReady_false (fmt := .window4) rfl
      (Bool.or_eq_false_iff.2 ⟨parserReady_eq_false (.inr (.inl h)), parserReady_eq_false (.inr (.inl h'))⟩)
  case hdr12 => exact exec_of_formatReady_false hf (headerReady_eq_false h)
  case hdr10 => exact exec_of_formatReady_false hf (headerReady_eq_false h)
  case ev6 => exact exec_of_formatReady_false hf (recordReady_eq_false h)
  case ev8 => exact exec_of_formatReady_false hf (recordReady_eq_false h)
  case cmd => exact exec_of_formatReady_false hf (parserReady_eq_false (.inr (.inl h)))
  case parserOp =>
    rw [exec_parserOp]
    exact next_ite_of_false (parserReady_eq_false h)
  case readyLine => exact congrArg Host.Outcome.next (txReadyBytes_of_waiting h 14)
  case pull =>
    have waits : s.usb.rx = [] ∨ pullAllowed s = false := by
      rw [← Bool.not_eq_true, pullAllowed_iff]
      rcases h with h | h | h | ⟨he, hp⟩
      · exact .inr fun k => h k.1
      · exact .inr fun k => absurd (h.symm.trans k.2.1) (by decide)
      · exact .inl h
      · exact .inr fun k => absurd (hp.symm.trans (k.2.2 he)) (by decide)
    exact exec_pull_of_waiting waits

/-! ### Records -/

/-- The frame in progress after one more record: its event pushed, its bytes gone, the frame registers advanced (R206). -/
def afterRecord (e : Event) (s : State) : State :=
  { push e (dropFront s.cfg.rcd.len s) with
    parser :=
      { s.parser with
        buf := s.parser.buf.drop s.cfg.rcd.len, evLeft := s.parser.evLeft - 1, frameEvents := s.parser.frameEvents + 1,
        frameBytes := s.parser.frameBytes + BitVec.ofNat 32 s.cfg.rcd.len } }

/-- An accepted record leaves the frame so, and completes it where it was the last (R206). -/
theorem acceptRecord_eq (e : Event) (s : State) :
    acceptRecord e s =
      if s.parser.evLeft - 1 = 0 then setPstate .scanMagic (frameDone (afterRecord e s)) else afterRecord e s := by
  unfold acceptRecord afterRecord
  simp

/-- A record of the strapped variant in its state is accepted; its ignored bits are not looked at (R94, R101). -/
theorem exec_record {s : State} {i : Instr} {v : RecVariant} {m : BitVec 2} {a : SidAddr} {x : Byte} {d : Word32}
    (hi : (v = .ev6 ∧ m = 0 ∧ ∃ hi, i = .ev6 hi a x d) ∨ (v = .ev8 ∧ ∃ chHi hi pad, i = .ev8 chHi m hi a x pad d))
    (hready : recordReady v s = true) :
    exec i s = .next (acceptRecord { chipMask := m, addr := a, value := x, delta := d } s) := by
  rcases hi with ⟨rfl, rfl, _, rfl⟩ | ⟨rfl, _, _, _, rfl⟩
  · exact congrArg Host.Outcome.next (if_pos hready)
  · exact congrArg Host.Outcome.next (if_pos hready)

/-- Settles O14: the record's effect is that of the push and of the frame registers, then of `frame_done` after the last. -/
theorem eventRecordsComplete : Obligations.EventRecordsComplete := by
  intro s i v m a x d hi hsess hp hv hlen hleft
  subst hv
  rw [exec_push, narrowEvent_toNat ⟨m, a, x, d⟩,
    exec_record hi ((recordReady_iff _ s).2 ⟨rfl, (parserReady_iff _ s).2 ⟨hsess, hp, hlen⟩⟩), acceptRecord_eq]
  refine ⟨answer (.bool true) (push ⟨m, a, x, d⟩ (dropFront s.cfg.rcd.len s)), afterRecord ⟨m, a, x, d⟩ s, rfl, ?_,
    fun hmore => ?_, fun hlast => ⟨_, rfl, ?_⟩⟩
  · apply State.ext <;> simp [afterRecord]
  · rw [if_neg (by omega)]
  · rw [if_pos (by omega)]
    rfl

/-- A command record in its state is dispatched with its opcode and first parameter (R207, R230). -/
theorem exec_classifyCommand (op p0 p1 p2 : Byte) {s : State} (h : parserReady .readCommand s = true) :
    exec (classifyCommand op p0 p1 p2) s = .next (acceptCommandRecord op p0 s) := by
  have accepts : ∀ op', (.next (if parserReady .readCommand s then acceptCommandRecord op' p0 s else s) : Outcome) =
      .next (acceptCommandRecord op' p0 s) := fun op' => congrArg Host.Outcome.next (if_pos h)
  unfold classifyCommand
  split_ifs with h1 h2 h3
  · subst h1; exact accepts _
  · subst h2; exact accepts _
  · subst h3; exact accepts _
  · exact accepts _

/-- Settles O15: the command is dispatched on the shortened buffer and the frame is completed. -/
theorem commandRecordsComplete : Obligations.CommandRecordsComplete := by
  intro s op p0 p1 p2 i hi hsess hp hlen
  have class_eq : i = classifyCommand op p0 p1 p2 := by
    rcases hi with ⟨rfl, rfl⟩ | ⟨rfl, rfl⟩ | ⟨rfl, rfl⟩ | ⟨h1, h2, h3, rfl⟩
    · rfl
    · rfl
    · rfl
    · exact (classifyCommand_unknown op p0 p1 p2 ((unknownOpcode_iff op).2 ⟨h1, h2, h3⟩)).symm
  rw [class_eq, exec_controlDispatch, exec_classifyCommand op p0 p1 p2 ((parserReady_iff _ s).2 ⟨hsess, hp, hlen⟩)]
  exact ⟨_, _, rfl, controlDispatch_unknown op p0 _, rfl, rfl⟩

/-! ### The unit fetched against the pseudocode -/

/-- What the count of a header whose magic is there makes of it (R205). -/
def acceptHeader (c f : Word32) (s : State) : State :=
  if c.toNat = cmdSentinel then acceptCommand f s
  else if c.toNat ≤ maxCount then acceptEvents c f s
  else rejectCount c s

theorem acceptHeader_of_le {c : Word32} (f : Word32) (s : State) (h : c.toNat ≤ maxCount) :
    acceptHeader c f s = acceptEvents c f s := by
  have hc : c.toNat ≠ cmdSentinel := by
    simp only [cmdSentinel, maxCount] at *
    omega
  rw [acceptHeader, if_neg hc, if_pos h]

theorem acceptHeader_of_oversized {c : Word32} (f : Word32) (s : State) (h : oversizedCount c.toNat = true) :
    acceptHeader c f s = rejectCount c s := by
  obtain ⟨hc, hlarge⟩ := (oversizedCount_iff _).1 h
  rw [acceptHeader, if_neg hc, if_neg (Nat.not_le.2 hlarge)]

theorem headerStep_eq (s : State) :
    headerStep s =
      if magicAtFront s then acceptHeader (headerCount s.cfg.hdr s.parser.buf) (headerFrame s.cfg.hdr s.parser.buf) s
      else loseMagic (byteAt s.parser.buf 0) s := by
  unfold headerStep acceptHeader
  cases magicAtFront s <;> rfl

/-- A 12-byte header's unit has the effect of its count (R89, R205). -/
theorem exec_classifyHdr12 (c f : Word32) {s : State} (h : headerReady .hdr12 s = true) :
    exec (classifyHdr12 c f) s = .next (acceptHeader c f s) := by
  have effect : ∀ x, (.next (if headerReady .hdr12 s then x else s) : Outcome) = .next x :=
    fun x => congrArg Host.Outcome.next (if_pos h)
  rcases count_classes c.toNat with hc | hc | hc | hc
  · obtain rfl : c = 0xFFFF := BitVec.eq_of_toNat_eq hc
    rw [classifyHdr12_command]
    exact effect _
  · rw [classifyHdr12_events c f hc, acceptHeader_of_le f s hc.le]
    refine (effect _).trans ?_
    rw [setWidth_count_setWidth c hc, BitVec.setWidth_eq]
  · obtain rfl : c = 8192 := BitVec.eq_of_toNat_eq hc
    rw [classifyHdr12_max]
    exact effect _
  · rw [classifyHdr12_oversized c f hc, acceptHeader_of_oversized f s hc]
    exact effect _

/-- A 10-byte header's unit has the effect of its widened count (R89, R205). -/
theorem exec_classifyHdr10 (c : BitVec 16) (f : Word32) {s : State} (h : headerReady .hdr10 s = true) :
    exec (classifyHdr10 c f) s = .next (acceptHeader (c.setWidth 32) f s) := by
  have effect : ∀ x, (.next (if headerReady .hdr10 s then x else s) : Outcome) = .next x :=
    fun x => congrArg Host.Outcome.next (if_pos h)
  have wide : (c.setWidth 32).toNat = c.toNat := BitVec.toNat_setWidth_of_le (by decide)
  rcases count_classes c.toNat with hc | hc | hc | hc
  · obtain rfl : c = 0xFFFF := BitVec.eq_of_toNat_eq hc
    rw [classifyHdr10_command]
    exact effect _
  · rw [classifyHdr10_events c f hc, acceptHeader_of_le f s (wide ▸ hc.le)]
    refine (effect _).trans ?_
    rw [setWidth_count_setWidth c hc]
  · obtain rfl : c = 8192 := BitVec.eq_of_toNat_eq hc
    rw [classifyHdr10_max]
    exact effect _
  · rw [classifyHdr10_oversized c f hc, acceptHeader_of_oversized f s (wide ▸ hc)]
    exact effect _

theorem magicAtFront_iff (s : State) : magicAtFront s = true ↔ s.parser.buf.take 4 = magic := decide_eq_true_iff

/-- A window's unit has the effect of `SCAN_MAGIC` (R204). -/
theorem exists_unit_scanMagic {s : State} (h : parserReady .scanMagic s = true) :
    ∃ i, decode (parserFormat s) s.parser.buf = .ok i ∧ exec i s = .next (scanStep s) := by
  obtain ⟨-, hp, hlen⟩ := (parserReady_iff _ _).1 h
  rw [parserFormat, hp, scanStep]
  refine ⟨_, decode_window4_of_length hlen, ?_⟩
  by_cases hm : s.parser.buf.take 4 = magic
  · rw [if_pos hm, if_pos ((magicAtFront_iff s).2 hm)]
    exact congrArg Host.Outcome.next (if_pos h)
  · rw [if_neg hm, if_neg (mt (magicAtFront_iff s).1 hm)]
    exact congrArg Host.Outcome.next (if_pos (by rw [h, Bool.true_or]))

/-- A header's unit has the effect of `READ_HEADER` where the magic is there (R89, R205). -/
theorem exists_unit_header {s : State} (h : parserReady .readHeader s = true) (hm : magicAtFront s = true) :
    ∃ i, decode (parserFormat s) s.parser.buf = .ok i ∧ exec i s = .next (headerStep s) := by
  obtain ⟨-, hp, hlen⟩ := (parserReady_iff _ _).1 h
  rw [parserNeed] at hlen
  rw [headerStep_eq, if_pos hm]
  cases hv : s.cfg.hdr with
  | hdr12 =>
    rw [hv] at hlen
    refine ⟨_, ?_, exec_classifyHdr12 _ _ ((headerReady_iff _ _).2 ⟨hv, h⟩)⟩
    simp only [parserFormat, hp, hm, hv, if_true]
    exact (decode_hdr12_of_length hlen).trans (if_pos ((magicAtFront_iff s).1 hm))
  | hdr10 =>
    rw [hv] at hlen
    refine ⟨_, ?_, exec_classifyHdr10 _ _ ((headerReady_iff _ _).2 ⟨hv, h⟩)⟩
    simp only [parserFormat, hp, hm, hv, if_true]
    exact (decode_hdr10_of_length hlen).trans (if_pos ((magicAtFront_iff s).1 hm))

/-- With the magic gone `READ_HEADER` has the effect of a window that misses (R205). -/
theorem exists_unit_lostMagic {s : State} (h : parserReady .readHeader s = true) (hm : magicAtFront s = false) :
    ∃ i, decode (parserFormat s) s.parser.buf = .ok i ∧ exec i s = .next (headerStep s) := by
  obtain ⟨-, hp, hlen⟩ := (parserReady_iff _ _).1 h
  have hlost : s.parser.buf.take 4 ≠ magic := fun e => absurd ((magicAtFront_iff s).2 e) (by rw [hm]; decide)
  have window : parserFormat s = .window4 := by simp [parserFormat, hp, hm]
  rw [window, headerStep_eq, hm]
  refine ⟨_, decode_window4_of_length ((four_le_parserNeed s.cfg .readHeader).1.trans hlen), ?_⟩
  rw [if_neg hlost]
  exact congrArg Host.Outcome.next (if_pos (by rw [h, Bool.or_true]))

/-- A record's unit has the effect of `READ_EVENTS` (R94, R206). -/
theorem exists_unit_readEvents {s : State} (h : parserReady .readEvents s = true) :
    ∃ i, decode (parserFormat s) s.parser.buf = .ok i ∧ exec i s = .next (recordStep s) := by
  obtain ⟨-, hp, hlen⟩ := (parserReady_iff _ _).1 h
  rw [parserFormat, hp, recordStep]
  cases hv : s.cfg.rcd with
  | ev6 =>
    have hlen : 6 ≤ s.parser.buf.length := by simpa [parserNeed, hv, RecVariant.len] using hlen
    exact ⟨_, decode_ev6_of_length hlen,
      exec_record (.inl ⟨rfl, rfl, _, rfl⟩) ((recordReady_iff _ _).2 ⟨hv, h⟩)⟩
  | ev8 =>
    have hlen : 8 ≤ s.parser.buf.length := by simpa [parserNeed, hv, RecVariant.len] using hlen
    exact ⟨_, decode_ev8_of_length hlen,
      exec_record (.inr ⟨rfl, _, _, _, rfl⟩) ((recordReady_iff _ _).2 ⟨hv, h⟩)⟩

/-- A command's unit has the effect of `READ_COMMAND` (R96, R207). -/
theorem exists_unit_readCommand {s : State} (h : parserReady .readCommand s = true) :
    ∃ i, decode (parserFormat s) s.parser.buf = .ok i ∧ exec i s = .next (commandStep s) := by
  obtain ⟨-, hp, hlen⟩ := (parserReady_iff _ _).1 h
  rw [parserFormat, hp]
  exact ⟨_, decode_cmd_of_length hlen, exec_classifyCommand _ _ _ _ h⟩

/-- With its bytes there the parser always fetches a unit, which has the effect of its state's operation (R204 to R207). -/
theorem exists_unit_of_parserEnabled {s : State} (h : parserEnabled s = true) :
    ∃ i, fetchUnit s = some i ∧ exec i s = exec (parserOp s.parser.pstate) s := by
  have fetched : ∀ t, (∃ i, decode (parserFormat s) s.parser.buf = .ok i ∧ exec i s = .next t) →
      ∃ i, fetchUnit s = some i ∧ exec i s = .next t := by
    rintro t ⟨i, hdec, hexec⟩
    obtain ⟨hsess, -, hneed⟩ := (parserReady_iff _ _).1 h
    exact ⟨i, fetchUnit_of_decode hsess hneed hdec, hexec⟩
  rw [exec_parserOp]
  rw [parserEnabled] at h
  rw [if_pos h]
  apply fetched
  cases hp : s.parser.pstate with
  | scanMagic => exact exists_unit_scanMagic (hp ▸ h)
  | readHeader =>
    cases hm : magicAtFront s with
    | true => exact exists_unit_header (hp ▸ h) hm
    | false => exact exists_unit_lostMagic (hp ▸ h) hm
  | readEvents => exact exists_unit_readEvents (hp ▸ h)
  | readCommand => exact exists_unit_readCommand (hp ▸ h)

/-- Settles O9: an enabled operation has the effect of the unit fetched, and without one both wait. -/
theorem parserStepsAgreeWithUnits : Obligations.ParserStepsAgreeWithUnits := by
  intro s
  cases h : parserEnabled s with
  | true =>
    obtain ⟨i, hfetch, hexec⟩ := exists_unit_of_parserEnabled h
    rw [hfetch, ← hexec]
  | false =>
    have none_fetched : fetchUnit s = none := by rw [fetchUnit, h]; rfl
    rw [none_fetched, exec_parserOp]
    exact next_ite_of_false h

end Sys2Proof.Proofs
end

section
/-!
PROOFS. The READY line, byte by byte and whole (spec/30_encoding.md R97; spec/48_session.md R272).
-/

namespace Sys2Proof.Proofs

open Sys2Proof.Machine Sys2Proof.Laws

/-- During the handshake the next byte of the line goes out, and the fourteenth begins streaming (R272). -/
theorem txReadyByte_of_handshake {s : State} {b : Byte} (hsess : s.sess = .awaitingHandshake)
    (htx : s.usb.txReady = true) (hb : readyBytes[s.txIdx]? = some b) :
    txReadyByte s = { s with
      usb := { s.usb with tx := s.usb.tx ++ [b] }, txIdx := s.txIdx + 1,
      sess := if s.txIdx = 13 then .streaming else .awaitingHandshake } := by
  obtain rfl : byteAt readyBytes s.txIdx = b := by rw [byteAt, List.getD_eq_getElem?_getD, hb]; rfl
  unfold txReadyByte
  by_cases hlast : s.txIdx = 13 <;> simp [hsess, htx, hlast]

/-- Settles O26: the byte at `tx_idx` goes out in the handshake, and nothing elsewhere. -/
theorem txReadyByteSends : Obligations.TxReadyByteSends := by
  intro s
  exact ⟨fun hsess htx b hb => congrArg Host.Outcome.next (txReadyByte_of_handshake hsess htx hb),
    fun h => congrArg Host.Outcome.next (txReadyByte_of_waiting h)⟩

/-- Enough steps in a row send the rest of the line and begin streaming; those left over have no effect (R272). -/
theorem txReadyBytes_of_handshake (n : Nat) {s : State} (hsess : s.sess = .awaitingHandshake)
    (htx : s.usb.txReady = true) (hidx : s.txIdx < 14) (hn : 14 ≤ s.txIdx + n) :
    txReadyBytes n s = { s with
      usb := { s.usb with tx := s.usb.tx ++ readyBytes.drop s.txIdx }, txIdx := 14, sess := .streaming } := by
  induction n generalizing s with
  | zero => omega
  | succ n ih =>
    have hlen : s.txIdx < readyBytes.length := hidx
    rw [txReadyBytes, txReadyByte_of_handshake hsess htx (List.getElem?_eq_getElem hlen), List.drop_eq_getElem_cons hlen]
    by_cases hlast : s.txIdx = 13
    · rw [txReadyBytes_of_waiting (.inl (by simp [hlast]))]
      simp [hlast, readyBytes]
    · rw [if_neg hlast, ih]
      · simp
      · rfl
      · exact htx
      · show s.txIdx + 1 < 14
        omega
      · show 14 ≤ s.txIdx + 1 + n
        omega

/-- Settles O27: fourteen steps are enough from any byte of the line. -/
theorem handshakeSendsTheLine : Obligations.HandshakeSendsTheLine := by
  intro s hsess htx hidx
  exact congrArg Host.Outcome.next (txReadyBytes_of_handshake 14 hsess htx hidx (Nat.le_add_left _ _))

end Sys2Proof.Proofs
end

section
/-!
PROOFS. The turns of a run that are not the parser's with a unit (spec/00_scope.md R11; spec/30_encoding.md R106;
spec/60_exceptions.md R300, R302): an operation's turn, the waiting parser's, and the environment's.
-/

namespace Sys2Proof.Proofs

open Sys2Proof.Machine

/-- A given turn with an operation executes it (R11). -/
theorem step_of_operation {s : State} {c : Choice} {i : Instr} {cs : List Choice} (hv : s.cfg.valid = true)
    (hs : s.sched = c :: cs) (hi : ∀ t, turnInstr c t = some i) : step s = exec i { s with sched := cs } := by
  have turn := nextTurn_of_sched_cons hs
  rw [step_of_turnInstr_some hv (by rw [turn]; exact hi _), turn]

/-- A given turn without an operation is the environment's (R106). -/
theorem step_of_environment {s : State} {c : Choice} {cs : List Choice} (hv : s.cfg.valid = true)
    (hs : s.sched = c :: cs) (hi : turnInstr c { s with sched := cs } = none) :
    step s = .next (environment c { s with sched := cs }) := by
  rw [step, if_pos hv, nextTurn_of_sched_cons hs, hi]

/-- Settles O8: each turn's operation, or the environment's step. -/
theorem stepRunsOtherTurns : Obligations.StepRunsOtherTurns := by
  intro s cs hv
  refine ⟨fun p hp hs => step_of_operation hv hs ?operation, fun m a v d hs => step_of_operation hv hs fun _ => rfl,
    fun hs hwait => step_of_environment hv hs ?parse, fun b hs => step_of_environment hv hs rfl,
    fun r hs => step_of_environment hv hs rfl, fun hs => ?flush,
    fun o hs => step_of_environment hv hs rfl, fun o hs => step_of_environment hv hs rfl⟩
  case operation =>
    intro t
    fin_cases hp <;> rfl
  case parse =>
    refine (fetchUnit_sched s cs).trans ?_
    rw [fetchUnit, hwait]
    rfl
  case flush =>
    have flush := step_of_environment hv hs rfl
    exact ⟨fun hsess => flush.trans (congrArg _ (if_pos hsess)), fun hsess => flush.trans (congrArg _ (if_neg hsess))⟩

end Sys2Proof.Proofs
end

section
/-!
PROOFS. The nine operations of the cell contract (spec/40_sid_cell.md R120 to R130): the seven that answer nothing are one call
on their cell, and the two reads are a call and an answer on the port.
-/

namespace Sys2Proof.Proofs

open Sys2Proof.Machine

/-- `clock(0)` is outside the contract (R122). -/
theorem exec_sidClock_zero (c : CellId) (s : State) : exec (.sidClock c 0) s = .refused .clockZero := rfl

/-- `set_chip_model` is recorded on the cell (R124). -/
theorem exec_sidSetChipModel (c : CellId) (m : ChipModel) (s : State) :
    exec (.sidSetChipModel c m) s = .next (callCell c (.setChipModel m) s) := rfl

/-- `enable_filter` is recorded on the cell (R126). -/
theorem exec_sidEnableFilter (c : CellId) (on : Bool) (s : State) :
    exec (.sidEnableFilter c on) s = .next (callCell c (.enableFilter on) s) := rfl

/-- `enable_external_filter` is recorded on the cell (R127). -/
theorem exec_sidEnableExternalFilter (c : CellId) (on : Bool) (s : State) :
    exec (.sidEnableExternalFilter c on) s = .next (callCell c (.enableExternalFilter on) s) := rfl

/-- `set_sampling_parameters` is recorded on the cell (R128). -/
theorem exec_sidSetSamplingParameters (c : CellId) (clkHz mode fsHz : Nat) (s : State) :
    exec (.sidSetSamplingParameters c clkHz mode fsHz) s = .next (callCell c (.setSamplingParameters clkHz mode fsHz) s) := rfl

/-- A call on the first cell appends to its trace and touches nothing else, the second cell included (R130). -/
theorem callCell_a_eq (k : CellCall) (s : State) :
    callCell .a k s = { s with cellA := { s.cellA with trace := s.cellA.trace ++ [k] } } := rfl

/-- A call on the second cell appends to its trace and touches nothing else, the first cell included (R130). -/
theorem callCell_b_eq (k : CellCall) (s : State) :
    callCell .b k s = { s with cellB := { s.cellB with trace := s.cellB.trace ++ [k] } } := rfl

/-- Settles O46: each operation without an answer is one call on its cell, and a call on either cell is written out once. -/
theorem cellCallsAreRecorded : Obligations.CellCallsAreRecorded := by
  intro s
  refine ⟨fun c i k hop => ?calls, fun c => exec_sidClock_zero c s, ⟨outputNow s .a, exec_sidOutput .a s⟩,
    ⟨outputNow s .b, exec_sidOutput .b s⟩, ⟨stateNow s .a, exec_sidReadState .a s⟩, ⟨stateNow s .b, exec_sidReadState .b s⟩⟩
  have hcall : exec i s = .next (callCell c k s) := by
    obtain ⟨a, v, rfl, rfl⟩ | ⟨n, hn, rfl, rfl⟩ | ⟨m, rfl, rfl⟩ | ⟨rfl, rfl⟩ | ⟨on, rfl, rfl⟩ | ⟨on, rfl, rfl⟩ |
      ⟨clkHz, mode, fsHz, rfl, rfl⟩ := hop
    · exact exec_sidWrite c a v s
    · exact exec_sidClock_of_ne c s hn
    · exact exec_sidSetChipModel c m s
    · exact exec_sidReset c s
    · exact exec_sidEnableFilter c on s
    · exact exec_sidEnableExternalFilter c on s
    · exact exec_sidSetSamplingParameters c clkHz mode fsHz s
  constructor
  · rintro rfl
    rw [hcall, callCell_a_eq]
  · rintro rfl
    rw [hcall, callCell_b_eq]

end Sys2Proof.Proofs
end

section
/-!
PROOFS. What the scheduler plays (spec/41_scheduler.md R137 to R144, R153 to R156): one sample, samples in a row, and the drain,
read off Laws/Scheduler.lean and Laws/Timeline.lean.
-/

namespace Sys2Proof.Proofs

open Sys2Proof.Machine Sys2Proof.Laws

/-! ### What a sample does -/

/-- The forced branch of step 1 is taken where the budget would be no cycle (R137). -/
theorem zeroCycle_iff (cfg : Config) (acc : Nat) : zeroCycle cfg acc = true ↔ (acc + cfg.clkHz) / cfg.fsHz = 0 := by
  simp only [zeroCycle, decide_eq_true_eq, Nat.lt_one_iff]

/-- Step 1 where the budget would be no cycle: one cycle, and no residual (R137). -/
theorem budget_of_zero {cfg : Config} {acc : Nat} (h : (acc + cfg.clkHz) / cfg.fsHz = 0) :
    zeroCycle cfg acc = true ∧ cycleBudget cfg acc = 1 ∧ nextAcc cfg acc = 0 := by
  have hz := (zeroCycle_iff cfg acc).2 h
  exact ⟨hz, if_pos hz, if_pos hz⟩

/-- Step 1 elsewhere: quotient and remainder of the division (R137). -/
theorem budget_of_ne_zero {cfg : Config} {acc : Nat} (h : (acc + cfg.clkHz) / cfg.fsHz ≠ 0) :
    zeroCycle cfg acc = false ∧ cycleBudget cfg acc = (acc + cfg.clkHz) / cfg.fsHz ∧
    nextAcc cfg acc = (acc + cfg.clkHz) % cfg.fsHz := by
  have hz : ¬ zeroCycle cfg acc = true := mt (zeroCycle_iff cfg acc).1 h
  exact ⟨Bool.eq_false_iff.2 hz, if_neg hz, if_neg hz⟩

/-- A sample's calls on the two cells: those of its steps 1 to 3, and the output read last (R140). -/
theorem renderSample_cells {s : State} {ka kb : List CellCall}
    (ha : (advanceSample s).cellA = { s.cellA with trace := s.cellA.trace ++ ka })
    (hb : (advanceSample s).cellB = { s.cellB with trace := s.cellB.trace ++ kb }) :
    (renderSample s).cellA = { s.cellA with trace := s.cellA.trace ++ ka ++ [.output] } ∧
    (renderSample s).cellB = { s.cellB with trace := s.cellB.trace ++ kb ++ [.output] } := by
  simp [renderSample, readOutputs, ha, hb]

/-- What is appended to a trace is determined by the trace it gives. -/
theorem appended_unique {c c' : Cell} {ks ks' : List CellCall} (h : c = { c' with trace := c'.trace ++ ks })
    (h' : c = { c' with trace := c'.trace ++ ks' }) : ks = ks' :=
  List.append_cancel_left (congrArg Cell.trace (h.symm.trans h'))

/-- Settles O38: the calls that the clocking of Laws/Scheduler.lean and the timeline of Laws/Timeline.lean speak of are the
same, being what steps 1 to 3 append to the two traces. -/
theorem renderSampleAdvances : Obligations.RenderSampleAdvances := by
  intro s
  obtain ⟨ka, kb, ha, hb, hruns, hcycles, hpos, -, -, heng, hstatus⟩ := advanceSample_spec s
  obtain ⟨hcellA, hcellB⟩ := renderSample_cells ha hb
  have hcyclesB : clockedCycles kb = cycleBudget s.cfg s.engine.acc := by
    rw [← hcycles, clockedCycles_eq, clockedCycles_eq, hruns]
  refine ⟨_, ka, kb, cycleBudget s.cfg s.engine.acc, exec_renderSample s, fun hz => ?forced, fun hz => ?divided,
    hcellA, hcellB, hruns, hcycles, hcyclesB, hpos, fun q => ?played, ?frame⟩
  case forced =>
    obtain ⟨hforced, hbudget, hacc⟩ := budget_of_zero hz
    exact ⟨hbudget, by simp [renderSample_engine, hacc], by simp [renderSample, hstatus, hforced]⟩
  case divided =>
    obtain ⟨hforced, hbudget, hacc⟩ := budget_of_ne_zero hz
    exact ⟨hbudget, by simp [renderSample_engine, hacc], by simp [renderSample, hstatus, hforced]⟩
  case played =>
    obtain ⟨due, rest, left, ka', kb', hplayed, htotal, hleft, ha', hb'⟩ := advanceSample_played s q
    obtain rfl := appended_unique ha ha'
    obtain rfl := appended_unique hb hb'
    exact ⟨due, rest, left, played_congr_right hplayed (by simp [renderSample]) (by simp) (by simp [renderSample]),
      htotal, hleft⟩
  case frame => apply State.ext <;> simp

/-- Whether an event is due depends on the queue only. -/
theorem notDue_congr {s t : State} (h : NotDue s) (hq : t.queue = s.queue) : NotDue t := by
  unfold NotDue headDelta headEvent ringAt at h ⊢
  rwa [hq]

/-- Settles O40: the segment loop ends with no event due, and reading the outputs leaves the queue. -/
theorem renderLeavesNoDueEvent : Obligations.RenderLeavesNoDueEvent := by
  intro s
  obtain ⟨_, _, -, -, -, -, -, hdue, -⟩ := advanceSample_spec s
  exact ⟨_, exec_renderSample s, notDue_congr hdue (by simp [renderSample])⟩

/-! ### The drain -/

/-- `drain_zero` is `drainZero` (R144). -/
theorem exec_drainZero (s : State) : exec .drainZero s = .next (drainZero s) := rfl

/-- Where no event is due, the first event held has cycles left. -/
theorem delta_ne_zero_of_notDue {s : State} (q : QueueOk s) (h : NotDue s) {e : Event}
    (he : (heldEvents s).head? = some e) : e.delta ≠ 0 := by
  have hcount : s.queue.count ≠ 0 := by
    intro h0
    rw [List.eq_nil_of_length_eq_zero ((heldEvents_length s).trans h0)] at he
    cases he
  obtain ⟨es, hes⟩ := heldEvents_cons s (Nat.pos_of_ne_zero hcount) q.head_lt
  obtain rfl : headEvent s = e := by simpa [hes] using he
  intro hzero
  have hpos : 0 < headDelta s := h.resolve_left hcount
  simp [headDelta, hzero] at hpos

/-- Settles O42: what the drain loop does with as many turns as events held. -/
theorem drainZeroAppliesDueEvents : Obligations.DrainZeroAppliesDueEvents := by
  intro s q
  obtain ⟨due, hzero, hcellA, hcellB, hqueue, -, -, hheld⟩ := drainLoop_spec s.queue.count s
  exact ⟨drainZero s, due, exec_drainZero s, (hheld q).2, hzero,
    fun _ => delta_ne_zero_of_notDue (queueOk_drainZero s q) (notDue_drainZero s), hcellA, hcellB, hqueue,
    by apply State.ext <;> simp⟩

/-! ### Samples in a row -/

/-- One more sample on the test port (R141). -/
theorem renderRun_succ (n : Nat) (s : State) :
    renderRun (n + 1) s = renderRun n (answer (.frame (sampleFrame s)) (renderSample s)) := rfl

/-- `n` samples clock both cells by the same runs; the cycles and the residual are those of `n` samples on an empty queue,
whatever events are held (R137, R154). -/
theorem renderRun_clocks (n : Nat) (s : State) :
    ∃ ka kb : List CellCall,
      (renderRun n s).cellA.trace = s.cellA.trace ++ ka ∧ (renderRun n s).cellB.trace = s.cellB.trace ++ kb ∧
      clockRuns ka = clockRuns kb ∧ clockedCycles ka = (idleCycles s.cfg n s.engine.acc).sum ∧
      (renderRun n s).engine.acc = idleAcc s.cfg n s.engine.acc := by
  induction n generalizing s with
  | zero => exact ⟨[], [], by simp [renderRun], by simp [renderRun], rfl, rfl, rfl⟩
  | succ n ih =>
    obtain ⟨ka, kb, ha, hb, hruns, hcycles, -⟩ := advanceSample_spec s
    obtain ⟨hcellA, hcellB⟩ := renderSample_cells ha hb
    obtain ⟨ka', kb', ha', hb', hruns', hcycles', hacc'⟩ := ih (answer (.frame (sampleFrame s)) (renderSample s))
    simp only [answer_frame, renderSample_frame, renderSample_engine] at ha' hb' hcycles' hacc'
    rw [renderRun_succ]
    refine ⟨ka ++ [.output] ++ ka', kb ++ [.output] ++ kb', ?_, ?_, ?_, ?_, hacc'⟩
    · rw [ha', hcellA]; simp
    · rw [hb', hcellB]; simp
    · simp [clockRuns, hruns, hruns']
    · rw [clockedCycles_append, clockedCycles_append, hcycles, hcycles']; rfl

/-- With less than a cycle to a sample, every sample takes exactly one, forced or carried (R156). -/
theorem sum_idleCycles_of_lt {cfg : Config} (h : cfg.clkHz < cfg.fsHz) (n acc : Nat) (ha : acc < cfg.fsHz) :
    (idleCycles cfg n acc).sum = n := by
  induction n generalizing acc with
  | zero => rfl
  | succ n ih =>
    have hone : cycleBudget cfg acc = 1 := by
      have hlt : (acc + cfg.clkHz) / cfg.fsHz < 2 := Nat.div_lt_of_lt_mul (by omega)
      by_cases hz : (acc + cfg.clkHz) / cfg.fsHz = 0
      · exact (budget_of_zero hz).2.1
      · obtain ⟨-, hbudget, -⟩ := budget_of_ne_zero hz
        exact hbudget.trans (Nat.le_antisymm (Nat.le_of_lt_succ hlt) (Nat.pos_of_ne_zero hz))
    rw [idleCycles, List.sum_cons, hone, ih _ (nextAcc_lt cfg acc (by omega)), Nat.add_comm]

/-- Settles O41: the budgets of the samples add up, and the residual is what they leave over. -/
theorem renderRunTotal : Obligations.RenderRunTotal := by
  intro s n hfs _ hacc
  obtain ⟨ka, kb, ha, hb, hruns, hcycles, hresidual⟩ := renderRun_clocks n s
  refine ⟨ka, kb, ha, hb, hruns, fun hle => ⟨?_, ?_⟩, fun hlt => ?_⟩
  · rw [hcycles, sum_idleCycles_of_le hfs hle n _ hacc]
  · rw [hresidual, idleAcc_of_le hfs hle n _ hacc]
  · rw [hcycles, sum_idleCycles_of_lt hlt n _ hacc]

end Sys2Proof.Proofs
end

section
/-!
PROOFS. The policy gate (spec/41_scheduler.md R142, R143; spec/45_control.md R237, R238): which cells an event reaches, and what
of a write is passed on.
-/

namespace Sys2Proof.Proofs

open Sys2Proof.Machine Sys2Proof.Laws

/-! ### The mute transformation -/

/-- The control register of a voice is muted exactly where its bit is set (R237). -/
theorem muteDefault_eq (m : Byte) (a : SidAddr) (v : Byte) :
    muteDefault (m.setWidth 3) a v = if (∃ k < 3, m.getLsbD k = true ∧ a.toNat = 7 * k + 4) then v &&& 0x0E else v := by
  have haddr : ∀ n < 32, (a = BitVec.ofNat 5 n ↔ a.toNat = n) := by
    intro n hn
    rw [← BitVec.toNat_inj, BitVec.toNat_ofNat, Nat.mod_eq_of_lt hn]
  have hmuted : ((m.setWidth 3).getLsbD 0 && decide (a = 4) || (m.setWidth 3).getLsbD 1 && decide (a = 11) ||
      (m.setWidth 3).getLsbD 2 && decide (a = 18)) = true ↔ ∃ k < 3, m.getLsbD k = true ∧ a.toNat = 7 * k + 4 := by
    have h4 := haddr 4 (by decide)
    have h11 := haddr 11 (by decide)
    have h18 := haddr 18 (by decide)
    simp only [Nat.exists_lt_succ_right]
    simp [h4, h11, h18]
  exact if_congr hmuted rfl rfl

/-- A table's row is the first that matches (log 13). -/
theorem muteLookup_eq_find (rows : List MuteRow) (m : BitVec 3) (a : SidAddr) (v : Byte) :
    muteLookup rows m a v =
      ((rows.find? fun r => decide (r.voices = m ∧ r.addr = a ∧ r.value = v)).map MuteRow.result).getD v := by
  induction rows with
  | nil => rfl
  | cons r rows ih =>
    by_cases h : r.voices = m ∧ r.addr = a ∧ r.value = v
    · simp [muteLookup, h]
    · rw [List.find?_cons_of_neg (by simpa using h), ← ih, muteLookup, if_neg (by simpa [and_assoc] using h)]

/-- A lawful transformation passes a write on as it is while no voice is muted (R8). -/
theorem muteXform_of_no_voice {x : MuteXform} (hx : x.lawful = true) {m : Byte} (hm : m &&& 7 = 0) (a : SidAddr) (v : Byte) :
    muteXform x m a v = v := by
  have hvoices : m.setWidth 3 = 0 := by
    have h7 : m.setWidth 3 = (m &&& 7).setWidth 3 := by
      rw [BitVec.setWidth_and, show (7 : Byte).setWidth 3 = BitVec.allOnes 3 from rfl, BitVec.and_allOnes]
    rw [h7, hm]
    rfl
  cases x with
  | default => simp [muteXform, hvoices, muteDefault]
  | table rows =>
    simp only [MuteXform.lawful, List.all_eq_true, decide_eq_true_eq] at hx
    have hnone : rows.find? (fun r => decide (r.voices = 0 ∧ r.addr = a ∧ r.value = v)) = none := by
      rw [List.find?_eq_none]
      intro r hr hmatch
      exact hx r hr (of_decide_eq_true hmatch).1
    rw [muteXform, hvoices, muteLookup_eq_find, hnone]
    rfl

/-! ### Writes and events -/

/-- `cell_write` is `cellWrite` (R143). -/
theorem exec_cellWrite (c : CellId) (a : SidAddr) (v : Byte) (s : State) :
    exec (.cellWrite c a v) s = .next (cellWrite c a v s) := rfl

/-- A filter register is not written while the filter is off (R143). -/
theorem cellWrite_of_gated {s : State} {a : SidAddr} (c : CellId) (v : Byte) (hf : s.engine.filterEn = false)
    (ha : a ∈ s.cfg.filterRegs) : cellWrite c a v s = s := by
  simp [cellWrite, gatedWrite, hf, ha]

/-- Any other write is passed on, muted (R143). -/
theorem cellWrite_of_open {s : State} {a : SidAddr} (c : CellId) (v : Byte)
    (h : s.engine.filterEn = true ∨ a ∉ s.cfg.filterRegs) :
    cellWrite c a v s = callCell c (.write a (muteXform s.cfg.muteXform s.engine.voiceMask a v)) s := by
  rcases h with h | h <;> simp [cellWrite, gatedWrite, h]

/-- An event's write on each cell, where its mask selects the cell (R142). -/
theorem exec_applyEvent (e : Event) (s : State) :
    exec (.applyEvent e) s = .next (cellWriteIf e .b (cellWriteIf e .a s)) := rfl

theorem cellWriteIf_of_selects {e : Event} {c : CellId} (h : selects e.chipMask c = true) (s : State) :
    cellWriteIf e c s = cellWrite c e.addr e.value s := if_pos h

theorem cellWriteIf_of_not_selects {e : Event} {c : CellId} (h : selects e.chipMask c = false) (s : State) :
    cellWriteIf e c s = s := if_neg (by simp [h])

/-- Settles O43: the four masks, the closed gate and the open one. -/
theorem eventsAreAppliedThroughTheGate : Obligations.EventsAreAppliedThroughTheGate := by
  intro s
  refine ⟨fun e => ⟨fun h => ?both, fun h => ?first, fun h => ?second⟩,
    fun c a v => ⟨fun hf ha => ?closed, fun hopen => ⟨muteXform s.cfg.muteXform s.engine.voiceMask a v, ?_⟩⟩⟩
  case both =>
    have ha : selects e.chipMask .a = true := by rcases h with h | h <;> rw [h] <;> rfl
    have hb : selects e.chipMask .b = true := by rcases h with h | h <;> rw [h] <;> rfl
    refine ⟨_, _, exec_cellWrite .a _ _ s, exec_cellWrite .b _ _ _, ?_⟩
    rw [exec_applyEvent, cellWriteIf_of_selects ha, cellWriteIf_of_selects hb]
  case first =>
    have ha : selects e.chipMask .a = true := by rw [h]; rfl
    have hb : selects e.chipMask .b = false := by rw [h]; rfl
    refine ⟨_, exec_cellWrite .a _ _ s, ?_⟩
    rw [exec_applyEvent, cellWriteIf_of_selects ha, cellWriteIf_of_not_selects hb]
  case second =>
    have ha : selects e.chipMask .a = false := by rw [h]; rfl
    have hb : selects e.chipMask .b = true := by rw [h]; rfl
    refine ⟨_, exec_cellWrite .b _ _ s, ?_⟩
    rw [exec_applyEvent, cellWriteIf_of_not_selects ha, cellWriteIf_of_selects hb]
  case closed => rw [exec_cellWrite, cellWrite_of_gated c v hf ha]
  rw [exec_cellWrite, cellWrite_of_open c v hopen]
  refine ⟨?_, ?_, fun hlawful hmask => muteXform_of_no_voice hlawful hmask a v, fun hdefault => ?_, fun rows htable => ?_⟩
  · rintro rfl
    rw [callCell_a_eq]
  · rintro rfl
    rw [callCell_b_eq]
  · rw [hdefault]
    exact muteDefault_eq s.engine.voiceMask a v
  · rw [htable]
    exact muteLookup_eq_find rows _ a v

end Sys2Proof.Proofs
end

section
/-!
PROOFS. The queue's port operations and the accessors (spec/43_event_queue.md R181 to R186; spec/41_scheduler.md R145, R151,
R152).
-/

namespace Sys2Proof.Proofs

open Sys2Proof.Machine Sys2Proof.Laws

/-! ### A push -/

/-- `queue_event` is `push` (R145). -/
theorem exec_queueEvent (m a v d : Int) (s : State) : exec (.queueEvent m a v d) s = exec (.push m a v d) s := rfl

/-- The hysteresis at the later depth is what `flow_update` leaves (R246). -/
theorem flowed_of_paused {s t : State} (h : t.paused = pausedAt s.cfg s.paused t.queue.count) : Flowed s t := by
  constructor
  · intro hp
    simp [h, hp, pausedAt]
  · intro hp
    simp [h, hp, pausedAt]

/-- Settles O28: the store at `tail`, then the flow update at the new depth. -/
theorem pushWithRoom : Obligations.PushWithRoom := by
  intro s m a v d i hi hroom
  have hexec : exec i s = .next (answer (.bool true) (flowUpdate (storeTail (narrowed m a v d) s))) := by
    rw [← narrowEvent_eq_narrowed, ← push_regs _ s hroom]
    rcases hi with rfl | rfl
    · exact exec_push m a v d s
    · rw [exec_queueEvent, exec_push]
  refine ⟨_, hexec, rfl, by simp, fun k hk => ?_, by simp [ringNext], by simp, flowed_of_paused (by simp), ?_⟩
  · simp [memRead_memWrite_other _ _ hk]
  · apply State.ext <;> simp

/-! ### The queue's reset -/

/-- The queue's reset, written out (R186). -/
theorem queueReset_eq {s : State} (h : 0 < s.cfg.highWm) :
    queueReset s = { s with queue := { s.queue with head := 0, tail := 0, count := 0 }, paused := false } := by
  apply State.ext <;> simp [pausedAt_zero s.cfg s.paused h]

/-- The queue's reset on its port (R186). -/
theorem exec_queueReset (s : State) : exec .queueReset s = .next (queueReset s) := rfl

/-- `reset_queue_state` is the queue's reset (R151). -/
theorem exec_resetQueueState (s : State) : exec .resetQueueState s = .next (queueReset s) := rfl

/-- Settles O33: both operations are the queue's reset. -/
theorem queueResetsComplete : Obligations.QueueResetsComplete := by
  intro s i hi hwm
  rw [← queueReset_eq hwm]
  rcases hi with rfl | rfl
  · exact exec_queueReset s
  · exact exec_resetQueueState s

/-! ### The accessors -/

/-- `peek` answers the oldest event held, if there is one (R184). -/
theorem exec_peek (s : State) : exec .peek s = .next (answer (.event (peekHead s)) s) := rfl

theorem peekHead_of_empty {s : State} (h : s.queue.count = 0) : peekHead s = none := if_pos h

theorem peekHead_of_pos {s : State} (h : 0 < s.queue.count) : peekHead s = some (ringAt s s.queue.head) := if_neg h.ne'

/-- `depth` answers `count` (R185). -/
theorem exec_depth (s : State) : exec .depth s = .next (answer (.nat s.queue.count) s) := rfl

/-- So does `get_queue_depth` (R152). -/
theorem exec_getQueueDepth (s : State) : exec .getQueueDepth s = .next (answer (.nat s.queue.count) s) := rfl

/-- `get_dropped_event_count` answers `dropped_count` (R152). -/
theorem exec_getDroppedEventCount (s : State) :
    exec .getDroppedEventCount s = .next (answer (.word s.queue.droppedCount) s) := rfl

/-- `get_monitor` reads both snapshots, cell 0 first, and answers the monitor's values (R152). -/
theorem exec_getMonitor (s : State) :
    exec .getMonitor s = .next (answer (.monitor (monitorNow s)) (callCell .b .readState (callCell .a .readState s))) := rfl

/-- Settles O32: each accessor answers a register, and reading cell 0 does not show in the snapshot of cell 1. -/
theorem accessorsAnswer : Obligations.AccessorsAnswer := by
  intro s
  refine ⟨fun h => ?empty, fun h => ?held, exec_depth s, exec_getQueueDepth s, exec_getDroppedEventCount s, _, _,
    stateNow s .a, stateNow s .b, exec_sidReadState .a s, rfl, exec_sidReadState .b _, by simp, exec_getMonitor s⟩
  case empty => rw [exec_peek, peekHead_of_empty h]; rfl
  case held => rw [exec_peek, peekHead_of_pos h]; rfl

end Sys2Proof.Proofs
end

section
/-!
PROOFS. The engine's initialisations, the attachment of a session, and the gain (spec/41_scheduler.md R146, R148 to R150;
spec/48_session.md R271).
-/

namespace Sys2Proof.Proofs

open Sys2Proof.Machine Sys2Proof.Laws

/-! ### Cells and engine -/

/-- `cell_init` makes its calls on its cell, in order (R148). -/
theorem exec_cellInit (c : CellId) (s : State) :
    exec (.cellInit c) s = .next (callCells c (initCalls s.cfg s.engine.modelMode c) s) := rfl

/-- `cell_construct` makes its calls on its cell, in order (R149). -/
theorem exec_cellConstruct (c : CellId) (s : State) :
    exec (.cellConstruct c) s = .next (callCells c (constructCalls s.cfg) s) := rfl

/-- The state whose cells the engine reset initialises: nothing queued or counted as dropped, no residual (R150). -/
def clearedEngine (s : State) : State :=
  { s with
    queue := { s.queue with head := 0, tail := 0, count := 0, droppedCount := 0 }
    paused := false, engine := { s.engine with acc := 0 } }

/-- The engine reset clears queue and residual, then initialises cell 0 and cell 1 (R150). -/
theorem engineReset_eq {s : State} (h : 0 < s.cfg.highWm) :
    engineReset s = cellInit .b (cellInit .a (clearedEngine s)) := by
  unfold engineReset clearedEngine
  rw [queueReset_eq h]

/-- The engine reset on its port (R150). -/
theorem exec_engineReset (s : State) : exec .engineReset s = .next (engineReset s) := rfl

/-- Settles O45: the calls on the one cell, and the engine reset as a clearing and two initialisations. -/
theorem initialisationsComplete : Obligations.InitialisationsComplete := by
  intro s
  refine ⟨fun c ks i hi => ?calls, fun hwm => ?reset⟩
  case calls =>
    have hexec : exec i s = .next (callCells c ks s) := by
      rcases hi with ⟨rfl, rfl⟩ | ⟨rfl, rfl⟩
      · exact exec_cellInit c s
      · exact exec_cellConstruct c s
    constructor
    · rintro rfl
      rw [hexec, callCells_a]
    · rintro rfl
      rw [hexec, callCells_b]
  case reset =>
    refine ⟨_, _, exec_cellInit .a (clearedEngine s), exec_cellInit .b _, ?_⟩
    rw [exec_engineReset, engineReset_eq hwm]
    rfl

/-! ### Attaching -/

/-- An attach while disconnected begins the handshake, and elsewhere is ignored (R271, R275). -/
theorem exec_attach (s : State) :
    exec .attach s = .next (if s.sess = .disconnected then attachSession s else s) := rfl

/-- Queue, flow flag and cells after an engine reset, written out (R148, R150). -/
theorem engineReset_parts {s : State} (h : 0 < s.cfg.highWm) :
    (engineReset s).paused = false ∧
    (engineReset s).queue = { s.queue with head := 0, tail := 0, count := 0, droppedCount := 0 } ∧
    (engineReset s).cellA = { s.cellA with trace := s.cellA.trace ++ initCalls s.cfg s.engine.modelMode .a } ∧
    (engineReset s).cellB = { s.cellB with trace := s.cellB.trace ++ initCalls s.cfg s.engine.modelMode .b } := by
  rw [engineReset_eq h]
  simp [clearedEngine, cellInit, callCells_a, callCells_b]

/-- Attaching: the session's registers, the parser and telemetry at their initial values, the rest from the engine reset (R261,
R271). -/
theorem attachSession_parts (s : State) :
    (attachSession s).sess = .awaitingHandshake ∧ (attachSession s).txIdx = 0 ∧ (attachSession s).parser = {} ∧
    (attachSession s).tel = {} ∧ (attachSession s).paused = (engineReset s).paused ∧
    (attachSession s).queue = (engineReset s).queue ∧ (attachSession s).engine = (engineReset s).engine ∧
    (attachSession s).cellA = (engineReset s).cellA ∧ (attachSession s).cellB = (engineReset s).cellB := by
  simp [attachSession]

/-- Settles O24: the engine reset, the parser's and the telemetry's initial values, and the session's registers. -/
theorem attachResetsTheSession : Obligations.AttachResetsTheSession := by
  intro s
  refine ⟨fun hsess => ?ignored, fun hsess hwm => ?attached⟩
  case ignored => rw [exec_attach, if_neg hsess]
  case attached =>
    obtain ⟨hpaused, hqueue, hcellA, hcellB⟩ := engineReset_parts hwm
    obtain ⟨hbegun, htx, hparser, htel, hflow, hring, hengine, ha, hb⟩ := attachSession_parts s
    rw [exec_attach, if_pos hsess]
    refine ⟨_, rfl, hbegun, htx, hparser, htel, hflow.trans hpaused, hring.trans hqueue,
      hengine.trans (engineReset_engine s), ha.trans hcellA, hb.trans hcellB, ?_⟩
    apply State.ext <;> simp

/-! ### The gain -/

/-- Settles O44: division that truncates divides the magnitudes and keeps the sign. -/
theorem gainTruncatesTowardZero : Obligations.GainTruncatesTowardZero := by
  intro s o
  refine ⟨gainOf s.cfg o, exec_gain o s, ?magnitude, fun hpos => ?pos, fun hneg => ?neg⟩
  case magnitude => rw [gainOf, Int.natAbs_tdiv, Int.natAbs_mul, Int.natAbs_natCast, Int.natAbs_natCast]; rfl
  case pos => exact Int.tdiv_nonneg (by positivity) (by positivity)
  case neg =>
    have hfraction : 0 ≤ Int.tdiv (-o.toInt * s.cfg.gainNum.toNat) s.cfg.gainDen.toNat :=
      Int.tdiv_nonneg (mul_nonneg (by omega) (by positivity)) (by positivity)
    rw [neg_mul, Int.neg_tdiv] at hfraction
    exact Int.neg_nonneg.1 hfraction

end Sys2Proof.Proofs
end

section
/-!
PROOFS. The audio buffers on their way from the pool through the pump to the sink (spec/42_sample_pump.md R165 to R168, R171,
R172; spec/60_exceptions.md R295): samples rendered into a buffer in call order, then taking, giving and outputting buffers.
-/

namespace Sys2Proof.Proofs

open Sys2Proof.Machine Sys2Proof.Laws

/-! ### Samples into a buffer -/

/-- A run of samples ends with a sample (R141). -/
theorem renderRun_last (n : Nat) (s : State) :
    renderRun (n + 1) s = answer (.frame (sampleFrame (renderRun n s))) (renderSample (renderRun n s)) := by
  induction n generalizing s with
  | zero => rfl
  | succ n ih => rw [renderRun_succ, ih, ← renderRun_succ]

theorem pumpRun_succ (n : Nat) (s : State) : pumpRun (n + 1) s = pumpRun n (pumpRender s) := rfl

/-- A run of the pump ends with a PUMP_RENDER (R167). -/
theorem pumpRun_last (n : Nat) (s : State) : pumpRun (n + 1) s = pumpRender (pumpRun n s) := by
  induction n generalizing s with
  | zero => rfl
  | succ n ih => rw [pumpRun_succ, ih, ← pumpRun_succ]

/-- Samples leave the straps (R21). -/
@[simp] theorem renderRun_cfg (n : Nat) (s : State) : (renderRun n s).cfg = s.cfg := by
  induction n with
  | zero => rfl
  | succ n ih => simp [renderRun_last, ih]

/-- `AUDIO` with the frames of `n` samples put into the pump's buffer from its index on (R167, R171). -/
def renderedAudio (s : State) : Nat → Memory Frame
  | 0 => s.pool.audio
  | n + 1 => memWrite (renderedAudio s n) (audioAddr s.cfg s.pump.buf (s.pump.idx + n)) (sampleFrame (renderRun n s))

/-- Each frame holds the sample of its call, which the later ones do not touch (R171). -/
theorem memRead_renderedAudio (s : State) {n j : Nat} (h : j < n) :
    memRead (renderedAudio s n) (audioAddr s.cfg s.pump.buf (s.pump.idx + j)) = some (sampleFrame (renderRun j s)) := by
  induction n with
  | zero => exact absurd h (Nat.not_lt_zero j)
  | succ n ih =>
    rw [renderedAudio]
    rcases Nat.lt_succ_iff_lt_or_eq.1 h with hlt | rfl
    · have haddr : audioAddr s.cfg s.pump.buf (s.pump.idx + j) ≠ audioAddr s.cfg s.pump.buf (s.pump.idx + n) := by
        simp only [audioAddr]
        omega
      rw [memRead_memWrite_other _ _ haddr, ih hlt]
    · exact memRead_memWrite_same _ _ _

/-- One PUMP_RENDER on a state that differs from a sampled one in pump, pool and answer (R167). -/
theorem pumpRender_withPump {p : Pump} {s : State} (q : Pool) (v : PortValue) (ha : p.active = true)
    (hi : p.idx < s.cfg.frames) :
    pumpRender (withPump p q v s) =
      withPump { p with idx := p.idx + 1 } { q with audio := memWrite q.audio (audioAddr s.cfg p.buf p.idx) (sampleFrame s) } v
        (renderSample s) := by
  rw [pumpRender_of_active (s := withPump p q v s) ha hi, renderSample_withPump, sampleFrame_withPump]
  rfl

/-- `n` PUMP_RENDERs are `n` samples, but for the pump, its buffer's frames, and the answer, which PUMP_RENDER does not give
(R167). -/
theorem pumpRun_eq_withPump {s : State} (ha : s.pump.active = true) (n : Nat) (hn : s.pump.idx + n ≤ s.cfg.frames) :
    pumpRun n s = withPump { s.pump with idx := s.pump.idx + n } { s.pool with audio := renderedAudio s n } s.ret
      (renderRun n s) := by
  induction n with
  | zero => rfl
  | succ n ih =>
    have hroom : s.pump.idx + n < (renderRun n s).cfg.frames := by
      rw [renderRun_cfg]
      omega
    rw [pumpRun_last, ih (by omega), pumpRender_withPump (p := { s.pump with idx := s.pump.idx + n }) _ _ ha hroom,
      renderRun_last, renderRun_cfg]
    rfl

/-- Settles O51: the pump's run is the samples' run with pump and frames changed, and the frames were written in call order. -/
theorem pumpWritesSamplesInOrder : Obligations.PumpWritesSamplesInOrder := by
  intro s n ha hidx hn
  rw [pumpRun_eq_withPump ha n (by omega)]
  refine ⟨by simp [withPump, hidx], rfl, rfl, rfl, rfl, rfl, fun j hj => ?_⟩
  refine ⟨_, sampleFrame (renderRun j s), exec_renderSample _, rfl, ?_⟩
  have hframe := memRead_renderedAudio s hj
  rwa [hidx, Nat.zero_add] at hframe

/-! ### Taking a buffer -/

/-- Changing a buffer that is there sets it (R41). -/
theorem setBuffer_of_getElem? {s : State} {b : Nat} {x : Buffer} (h : s.pool.buffers[b]? = some x) (f : Buffer → Buffer) :
    setBuffer b f s = { s with pool := { s.pool with buffers := s.pool.buffers.set b (f x) } } := by
  rw [setBuffer, modify_buffer _ _ _ _ h]

/-- PUMP_ACQUIRE is `pumpAcquire` (R166). -/
theorem exec_pumpAcquire (s : State) : exec .pumpAcquire s = .next (pumpAcquire s) := rfl

/-- An active pump keeps its buffer (R166). -/
theorem pumpAcquire_of_active {s : State} (ha : s.pump.active = true) : pumpAcquire s = s := if_pos ha

/-- With none FREE the acquire is reported as failed (R166, R295). -/
theorem pumpAcquire_of_none_free {s : State} (ha : s.pump.active = false) (h : firstFree s.pool.buffers = none) :
    pumpAcquire s = raise .noFreeBuffer s := by
  simp [pumpAcquire, ha, h]

/-- Otherwise the pump takes the buffer and begins at its first frame (R166). -/
theorem pumpAcquire_of_free {s : State} {b : Nat} (ha : s.pump.active = false) (h : firstFree s.pool.buffers = some b) :
    pumpAcquire s = { takeBuffer b s with pump := { active := true, buf := b, idx := 0 } } := by
  simp [pumpAcquire, ha, h]

/-- `take_free` answers none with none FREE (R165). -/
theorem exec_takeFree_of_none_free {s : State} (h : firstFree s.pool.buffers = none) :
    exec .takeFree s = .next (answer (.buffer none) s) := by
  change execTakeFree s = _
  simp [execTakeFree, h]

/-- `take_free` takes and answers the buffer chosen (R165). -/
theorem exec_takeFree_of_free {s : State} {b : Nat} (h : firstFree s.pool.buffers = some b) :
    exec .takeFree s = .next (answer (.buffer (some b)) (takeBuffer b s)) := by
  change execTakeFree s = _
  simp [execTakeFree, h]

/-- Settles O48: the pump is active, or no buffer is FREE, or the lowest FREE one is taken. -/
theorem acquireCompletes : Obligations.AcquireCompletes := by
  intro s
  refine ⟨fun ha => ?active, fun hnone => ?noneFree, fun b x hb hx hlowest => ?free⟩
  case active => rw [exec_pumpAcquire, pumpAcquire_of_active ha]
  case noneFree =>
    have hfirst := (firstFree_none s.pool.buffers).2 hnone
    refine ⟨exec_takeFree_of_none_free hfirst, fun ha => ?_⟩
    rw [exec_pumpAcquire, pumpAcquire_of_none_free ha hfirst]
    rfl
  case free =>
    have hfirst := firstFree_some s.pool.buffers b x hb hx hlowest
    refine ⟨?_, fun ha => ?_⟩
    · rw [exec_takeFree_of_free hfirst, takeBuffer, setBuffer_of_getElem? hb]
      rfl
    · rw [exec_pumpAcquire, pumpAcquire_of_free ha hfirst, takeBuffer, setBuffer_of_getElem? hb]

/-! ### Giving a buffer to the sink -/

/-- PUMP_COMMIT is `pumpCommit` (R168). -/
theorem exec_pumpCommit (s : State) : exec .pumpCommit s = .next (pumpCommit s) := rfl

/-- A pump with no buffer, or with one that is not filled, does not commit (R168). -/
theorem pumpCommit_of_waiting {s : State} (h : s.pump.active = false ∨ s.pump.idx ≠ s.cfg.frames) : pumpCommit s = s := by
  rcases pumpCommit_cases s with e | ⟨ha, hi, -⟩
  · exact e
  · rcases h with h | h
    · rw [ha] at h
      cases h
    · exact absurd hi h

/-- A filled buffer becomes FULL with its frames counted, joins the sink's queue, and leaves the pump (R168). -/
theorem pumpCommit_of_filled {s : State} {x : Buffer} (ha : s.pump.active = true) (hi : s.pump.idx = s.cfg.frames)
    (hx : s.pool.buffers[s.pump.buf]? = some x) :
    pumpCommit s = { s with
      pool := { s.pool with
        buffers := s.pool.buffers.set s.pump.buf { cond := .full, sampleCount := s.cfg.frames }
        full := s.pool.full ++ [s.pump.buf] }
      pump := { s.pump with active := false, idx := 0 } } := by
  have hset := modify_buffer _ _ x (fun _ => { cond := .full, sampleCount := s.cfg.frames }) hx
  rw [pumpCommit, if_pos (by simp [ha, hi]), ← hset]
  simp only [giveFull, setBuffer, List.modify_modify_eq]
  rfl

/-- A TAKEN buffer becomes FULL and joins the sink's queue (R165). -/
theorem giveFull_of_getElem? {s : State} {b : Nat} {x : Buffer} (h : s.pool.buffers[b]? = some x) :
    giveFull b s = { s with
      pool := { s.pool with
        buffers := s.pool.buffers.set b { x with cond := .full }, full := s.pool.full ++ [b] } } := by
  rw [giveFull, setBuffer_of_getElem? h]

/-- `give_full` of an index outside the pool faults (R41). -/
theorem exec_giveFull_of_outside {s : State} {b : Nat} (h : s.pool.buffers[b]? = none) :
    exec (.giveFull b) s = .fault .noSuchBuffer := if_pos (List.getElem?_eq_none_iff.1 h)

/-- `give_full` of a buffer of the pool gives it if it is TAKEN, and is refused otherwise (R165). -/
theorem exec_giveFull_of_getElem? {s : State} {b : Nat} {x : Buffer} (h : s.pool.buffers[b]? = some x) :
    exec (.giveFull b) s = if x.cond = .taken then .next (giveFull b s) else .refused .bufferNotTaken := by
  have hinside : ¬ s.pool.buffers.length ≤ b := by
    rw [← List.getElem?_eq_none_iff, h]
    exact Option.some_ne_none x
  have htaken : bufferTaken s b = true ↔ x.cond = .taken := by simp [bufferTaken, h]
  exact (if_neg hinside).trans (if_congr htaken rfl rfl)

/-! ### The sink -/

/-- The sink's step is `sinkFree` (R172). -/
theorem exec_sinkFree (s : State) : exec .sinkFree s = .next (sinkFree s) := rfl

/-- The sink waits while no buffer is FULL (R172). -/
theorem sinkFree_of_nil {s : State} (h : s.pool.full = []) : sinkFree s = s := by
  simp [sinkFree, h]

/-- The oldest FULL buffer is output and becomes FREE (R172). -/
theorem sinkFree_of_cons {s : State} {b : Nat} {rest : List Nat} {x : Buffer} (hfull : s.pool.full = b :: rest)
    (hx : s.pool.buffers[b]? = some x) :
    sinkFree s = { s with
      pool := { s.pool with
        buffers := s.pool.buffers.set b { x with cond := .free }, full := rest
        played := s.pool.played ++ bufferFrames s b } } := by
  simp [sinkFree, hfull, setBuffer_of_getElem? hx]

/-- A buffer holds as many frames as it counts (R41, R171). -/
theorem bufferFrames_eq {s : State} {b : Nat} {x : Buffer} (h : s.pool.buffers[b]? = some x) :
    bufferFrames s b = (List.range x.sampleCount).map fun j => audioAt s b j := by
  rw [bufferFrames, h]
  rfl

theorem length_bufferFrames {s : State} {b : Nat} {x : Buffer} (h : s.pool.buffers[b]? = some x) :
    (bufferFrames s b).length = x.sampleCount := by
  simp [bufferFrames_eq h]

/-- A frame that was written is the one output at its index (R171, R172). -/
theorem getElem?_bufferFrames {s : State} {b j : Nat} {x : Buffer} {f : Frame} (h : s.pool.buffers[b]? = some x)
    (hj : j < x.sampleCount) (hf : memRead s.pool.audio (audioAddr s.cfg b j) = some f) :
    (bufferFrames s b)[j]? = some f := by
  simp [bufferFrames_eq h, hj, audioAt, hf]

/-- Settles O50: the pump's buffer filled or not, a buffer given that is TAKEN, another or none, and the sink with and without a
FULL buffer. -/
theorem commitGiveAndSinkComplete : Obligations.CommitGiveAndSinkComplete := by
  intro s b
  refine ⟨fun x ha hi hbuf hx => ?commit, fun h => ?waiting, fun x hx htaken => ?give, fun x hx htaken => ?refused,
    exec_giveFull_of_outside, fun h => ?idle, fun x rest hfull hx => ?sink⟩
  case commit =>
    subst hbuf
    rw [exec_pumpCommit, pumpCommit_of_filled ha hi hx]
  case waiting => rw [exec_pumpCommit, pumpCommit_of_waiting h]
  case give => rw [exec_giveFull_of_getElem? hx, if_pos htaken, giveFull_of_getElem? hx]
  case refused => rw [exec_giveFull_of_getElem? hx, if_neg htaken]
  case idle => rw [exec_sinkFree, sinkFree_of_nil h]
  case sink =>
    refine ⟨bufferFrames s b, length_bufferFrames hx, fun j f hj hf => getElem?_bufferFrames hx hj hf, ?_⟩
    rw [exec_sinkFree, sinkFree_of_cons hfull hx]

end Sys2Proof.Proofs
end

section
/-!
PROOFS. The boot requirements (spec/70_reset_and_hazards.md R336; spec/43_event_queue.md R191): what a valid configuration meets,
and that one which breaks a requirement goes nowhere.
-/

namespace Sys2Proof.Proofs

open Sys2Proof.Machine Sys2Proof.Laws

/-- A table is lawful when every row names a muted voice (R8). -/
theorem lawful_table_iff (rows : List MuteRow) : (MuteXform.table rows).lawful = true ↔ ∀ r ∈ rows, r.voices ≠ 0 := by
  simp [MuteXform.lawful]

/-- The boot requirements that are no lower bound: words of 32 bits, a gain's denominator, a lawful transformation (R336). -/
theorem valid_words_gain_lawful {c : Config} (h : c.valid = true) :
    c.clkHz < 2 ^ 32 ∧ c.fsHz < 2 ^ 32 ∧ c.gainDen ≠ 0 ∧ c.muteXform.lawful = true := by
  simp only [Config.valid, Bool.and_eq_true, decide_eq_true_eq] at h
  obtain ⟨⟨⟨⟨⟨⟨⟨-, hclk⟩, -⟩, hfs⟩, hgain⟩, -⟩, -⟩, hlawful⟩ := h
  exact ⟨hclk, hfs, hgain, hlawful⟩

/-- Power-on reset refuses a configuration that is not valid (R336). -/
theorem powerOn_of_not_valid {c : Config} (h : c.valid ≠ true) : powerOn c = .refused .configuration := if_neg h

/-- So does every step (R336). -/
theorem step_of_not_valid {s : State} (h : s.cfg.valid ≠ true) : step s = .refused .configuration := if_neg h

/-- Settles O10: a valid configuration meets every requirement, so one that breaks any of them is not valid. -/
theorem badConfigurationRefused : Obligations.BadConfigurationRefused := by
  intro c hbroken
  have hinvalid : c.valid ≠ true := by
    intro hvalid
    obtain ⟨hcap, hbuf, hrecent, hframes, hnbuf, hclk, hfs, hwm, hhigh⟩ := valid_bounds hvalid
    obtain ⟨hclk', hfs', hgain, hlawful⟩ := valid_words_gain_lawful hvalid
    have hrows : ¬ ∃ rows, c.muteXform = .table rows ∧ ∃ r ∈ rows, r.voices = 0 := by
      rintro ⟨rows, htable, r, hr, hvoices⟩
      rw [htable, lawful_table_iff] at hlawful
      exact hlawful r hr hvoices
    simp only [hgain, hrows, or_false, false_or] at hbroken
    omega
  exact ⟨powerOn_of_not_valid hinvalid, fun s hs => step_of_not_valid (hs ▸ hinvalid)⟩

end Sys2Proof.Proofs
end

section
/-!
PROOFS. Removing from the event queue, merging and consuming deltas, and what each does to the queue's pending time
(spec/43_event_queue.md R181 to R183, R187 to R189, R192, R294).
-/

namespace Sys2Proof.Proofs

open Sys2Proof.Machine Sys2Proof.Laws

/-! ### Removing the oldest event -/

/-- A pop of an empty queue answers none (R183). -/
theorem exec_pop_of_empty {s : State} (h : s.queue.count = 0) : exec .pop s = .next (answer (.event none) s) := if_pos h

/-- Settles O31: a pop of an empty queue and of one that holds an event. -/
theorem popCompletes : Obligations.PopCompletes := by
  refine fun s => ⟨exec_pop_of_empty, fun hpos => ?_⟩
  refine ⟨_, exec_pop_of_pos hpos, rfl, by simp [ringNext], flowed_of_paused (by simp), ?_⟩
  apply State.ext <;> simp

/-- `drop_oldest` of an empty queue is refused. -/
theorem exec_dropOldest_of_empty {s : State} (h : s.queue.count = 0) : exec .dropOldest s = .refused .queueEmpty := if_pos h

/-- `drop_oldest` with an event held (R182). -/
theorem exec_dropOldest_of_pos {s : State} (h : 0 < s.queue.count) : exec .dropOldest s = .next (dropOldest s) :=
  if_neg h.ne'

/-- The new head after a drop holds its event with the dropped delta merged in (R182, R187). -/
theorem memRead_dropOldest_head {s : State} (h : 1 < s.queue.count) :
    memRead (dropOldest s).queue.ring ((s.queue.head + 1) % s.cfg.queueCap) =
      some { ringAt s ((s.queue.head + 1) % s.cfg.queueCap) with
        delta := (ringAt s ((s.queue.head + 1) % s.cfg.queueCap)).delta + (headEvent s).delta } := by
  rw [dropOldest_ring s h, memRead_memWrite_same]

/-- A drop changes no slot but the new head's (R182). -/
theorem memRead_dropOldest_other {s : State} (h : 1 < s.queue.count) {k : Nat}
    (hk : k ≠ (s.queue.head + 1) % s.cfg.queueCap) :
    memRead (dropOldest s).queue.ring k = memRead s.queue.ring k := by
  rw [dropOldest_ring s h, memRead_memWrite_other _ _ hk]

/-- Settles O30: a drop from an empty queue, of the last event, and with an event left to take the delta. -/
theorem dropOldestCompletes : Obligations.DropOldestCompletes := by
  refine fun s => ⟨exec_dropOldest_of_empty, fun hpos => ?_⟩
  obtain ⟨hhead, htail, hcount, hdropped, hstatus⟩ := dropOldest_regs s
  refine ⟨_, _, rfl, exec_dropOldest_of_pos hpos, hstatus, dropOldest_ring_last s,
    fun hmore => ⟨memRead_dropOldest_head hmore, fun k hk => memRead_dropOldest_other hmore hk⟩,
    hhead, htail, hcount, by rw [hdropped, satinc32_toNat], ?_⟩
  apply State.ext <;> simp

/-! ### A push into a full ring -/

/-- In a ring of two slots or more the next slot is another one. -/
theorem succ_mod_ne {n h : Nat} (hn : 2 ≤ n) (hh : h < n) : (h + 1) % n ≠ h := by
  intro heq
  have : (h + 1) % n = (h + 0) % n := by rw [heq, Nat.add_zero, Nat.mod_eq_of_lt hh]
  exact absurd (slot_inj (by omega) (by omega) this) one_ne_zero

/-- The queue after a push into a full ring: the new event takes the dropped one's slot (R181, R182). -/
theorem push_full_queue (e : Event) {s : State} (hcap : 2 ≤ s.cfg.queueCap) (hfull : s.queue.count = s.cfg.queueCap)
    (htail : s.queue.tail = s.queue.head) :
    (push e s).queue =
      { ring := memWrite (dropOldest s).queue.ring s.queue.head e, head := (s.queue.head + 1) % s.cfg.queueCap,
        tail := (s.queue.head + 1) % s.cfg.queueCap, count := s.cfg.queueCap,
        droppedCount := satinc32 s.queue.droppedCount } := by
  obtain ⟨hhead', htail', hcount', hdropped', -⟩ := dropOldest_regs s
  rw [push_full e s hfull]
  simp only [flowUpdate_frame, storeTail_queue, ringNext, dropOldest_frame, hhead', htail', hcount', hdropped', htail]
  congr 1
  omega

/-- Both forms of a push, on the narrowed event (R145, R181). -/
theorem exec_of_push_or_queueEvent {s : State} {m a v d : Int} {i : Instr}
    (hi : i = .push m a v d ∨ i = .queueEvent m a v d) :
    exec i s = .next (answer (.bool true) (push (narrowed m a v d) s)) := by
  rw [← narrowEvent_eq_narrowed]
  rcases hi with rfl | rfl
  · exact exec_push m a v d s
  · rw [exec_queueEvent, exec_push]

/-- Settles O29: the drop, then the store into the slot it freed, then the flow update at the same depth. -/
theorem pushOnFullRing : Obligations.PushOnFullRing := by
  intro s m a v d i hi hcap hfull hlt htail
  have hmore : 1 < s.queue.count := by omega
  have hpush := push_full (narrowed m a v d) s hfull
  have hqueue := push_full_queue (narrowed m a v d) hcap hfull htail
  have hne : (s.queue.head + 1) % s.cfg.queueCap ≠ s.queue.head := succ_mod_ne hcap hlt
  obtain ⟨-, -, hcount, -, hstatus⟩ := dropOldest_regs s
  have hpeak : s.queue.count - 1 + 1 = s.cfg.queueCap := by omega
  refine ⟨_, _, rfl, exec_of_push_or_queueEvent hi, rfl, ?status, ?stored, ?merged, fun k hk hk' => ?other,
    by simp [hqueue], by simp [hqueue], by simp [hqueue], by simp [hqueue], ?peak, flowed_of_paused (by simp [hpush]), ?frame⟩
  case status => simp [hpush, hstatus, headEvent]
  case stored => simp [hqueue]
  case merged => simpa [hqueue, headEvent, memRead_memWrite_other _ _ hne] using memRead_dropOldest_head hmore
  case other => simpa [hqueue, memRead_memWrite_other _ _ hk] using memRead_dropOldest_other hmore hk'
  case peak => simp [hpush, hcount, hpeak]
  case frame => apply State.ext <;> simp

/-! ### Consuming cycles -/

/-- `consume_cycles` on an empty queue is refused. -/
theorem exec_consumeCycles_of_empty {s : State} (r : Word32) (h : s.queue.count = 0) :
    exec (.consumeCycles r) s = .refused .queueEmpty := if_pos h

/-- `consume_cycles` with a run outside its range is refused. -/
theorem exec_consumeCycles_of_outside {s : State} {r : Word32} (h : 0 < s.queue.count)
    (hr : r.toNat = 0 ∨ headDelta s < r.toNat) : exec (.consumeCycles r) s = .refused .runOutOfRange := by
  have hguard : (decide (r = 0) || decide (headDelta s < r.toNat)) = true := by
    simpa [← BitVec.toNat_inj] using hr
  exact (if_neg h.ne').trans (if_pos hguard)

/-- `consume_cycles` inside its operand's range (R192). -/
theorem exec_consumeCycles_of_inside {s : State} {r : Word32} (h : 0 < s.queue.count) (hr : 1 ≤ r.toNat)
    (hr' : r.toNat ≤ headDelta s) : exec (.consumeCycles r) s = .next (consumeCycles r.toNat s) := by
  have hguard : ¬ (decide (r = 0) || decide (headDelta s < r.toNat)) = true := by
    have hne : r.toNat ≠ 0 := by omega
    simpa [← BitVec.toNat_inj, hne] using hr'
  exact (if_neg h.ne').trans (if_neg hguard)

/-- The delta a run leaves the head (R192). -/
def residualDelta (run : Nat) (s : State) : Word32 := BitVec.ofNat 32 (headDelta s - run)

/-- It is the difference: nothing wraps, since the delta is a word already. -/
@[simp] theorem residualDelta_toNat (run : Nat) (s : State) : (residualDelta run s).toNat = headDelta s - run := by
  have hlt : headDelta s < 2 ^ 32 := (headEvent s).delta.isLt
  simp only [residualDelta, BitVec.toNat_ofNat]
  exact Nat.mod_eq_of_lt (by omega)

/-- `consume_cycles` writes the head's delta and nothing else (R192). -/
theorem consumeCycles_eq (run : Nat) (s : State) :
    consumeCycles run s = setRingDelta s.queue.head (residualDelta run s) s := rfl

/-- Settles O35: the two refusals, and the one slot written inside the range. -/
theorem consumeCyclesCompletes : Obligations.ConsumeCyclesCompletes := by
  refine fun s r => ⟨exec_consumeCycles_of_empty r, exec_consumeCycles_of_outside, fun hpos hr hr' => ?_⟩
  refine ⟨_, residualDelta r.toNat s, exec_consumeCycles_of_inside hpos hr hr', residualDelta_toNat r.toNat s, ?_,
    fun k hk => ?_, rfl⟩
  · simp [consumeCycles_eq]
  · simp [consumeCycles_eq, memRead_memWrite_other _ _ hk]

/-! ### Delta conservation -/

/-- A merge loses no pending time modulo 2^32 (R187, R189). -/
theorem totalDelta_dropOldest {s : State} (q : QueueOk s) (h : 2 ≤ s.queue.count) :
    totalDelta (heldEvents (dropOldest s)) % 2 ^ 32 = totalDelta (heldEvents s) % 2 ^ 32 := by
  obtain ⟨es, hheld⟩ := heldEvents_cons s (by omega) q.head_lt
  have hes : es ≠ [] := by
    have hlen := heldEvents_length s
    rintro rfl
    rw [hheld, List.length_singleton] at hlen
    omega
  rw [heldEvents_dropOldest s (by omega) q.head_lt q.count_le, hheld, List.tail_cons, totalDelta_absorb _ _ hes, totalDelta]

/-- A push adds its delta to the pending time modulo 2^32, whether or not it drops (R189). -/
theorem totalDelta_push (e : Event) {s : State} (q : QueueOk s) (hcap : 2 ≤ s.cfg.queueCap) :
    totalDelta (heldEvents (push e s)) % 2 ^ 32 = (totalDelta (heldEvents s) + e.delta.toNat) % 2 ^ 32 := by
  by_cases hfull : s.queue.count = s.cfg.queueCap
  · rw [heldEvents_push_full e q (by omega) hfull, totalDelta_append, Nat.add_mod, totalDelta_dropOldest q (by omega),
      ← Nat.add_mod]
  · have hle := q.count_le
    rw [heldEvents_push e s q (by omega), totalDelta_append]

/-- A narrowed delta is its operand modulo 2^32 (R181). -/
theorem narrowed_delta_toNat (m a v d : Int) : (narrowed m a v d).delta.toNat = (d % 2 ^ 32).toNat := by
  simp only [narrowed, BitVec.toNat_ofNat]
  omega

/-- A pop takes the oldest event's delta out of the pending time (R189). -/
theorem totalDelta_popHead {s : State} (q : QueueOk s) (h : 0 < s.queue.count) :
    totalDelta (heldEvents s) = headDelta s + totalDelta (heldEvents (popHead s)) := by
  rw [heldEvents_popHead s h q.head_lt]
  rfl

/-- `consume_cycles` takes its run out of the pending time (R189). -/
theorem totalDelta_consumeCycles {s : State} {run : Nat} (q : QueueOk s) (h : 0 < s.queue.count) (hr : run ≤ headDelta s) :
    totalDelta (heldEvents s) = run + totalDelta (heldEvents (consumeCycles run s)) := by
  obtain ⟨es, hheld, hlowered⟩ := heldEvents_setHead s (residualDelta run s) h q.head_lt q.count_le
  have hdelta : (headEvent s).delta.toNat = headDelta s := rfl
  simp only [consumeCycles_eq, hheld, hlowered, totalDelta, residualDelta_toNat, hdelta]
  omega

/-- Settles O36: the three operations, each by its effect on the pending time. -/
theorem deltaConservation : Obligations.DeltaConservation := by
  intro s q hcap
  refine ⟨fun m a v d => ⟨_, exec_push m a v d s, ?push⟩, fun hpos => ⟨_, exec_pop_of_pos hpos, ?pop⟩,
    fun r hpos hr hr' => ⟨_, exec_consumeCycles_of_inside hpos hr hr', totalDelta_consumeCycles q hpos hr'⟩⟩
  case push => rw [heldEvents_answer, totalDelta_push _ q hcap, narrowEvent_eq_narrowed, narrowed_delta_toNat]
  case pop => rw [heldEvents_answer]; exact totalDelta_popHead q hpos

end Sys2Proof.Proofs
end

section
/-!
PROOFS. The parser's steps as a whole (spec/44_frame_parser.md R200, R204 to R207, R214, R215): which parts of the state they touch,
that each shortens the buffer or moves from the scan to a header, and so that the parser comes to rest and finds a magic behind noise.
-/

namespace Sys2Proof.Proofs

open Sys2Proof.Machine Sys2Proof.Laws

/-! ### One step -/

/-- A discarded byte is gone from the front, counted and reported, and the parser scans (R204, R291). -/
theorem loseMagic_eq (b : Byte) (s : State) :
    loseMagic b s = { s with
      parser := { s.parser with pstate := .scanMagic, buf := s.parser.buf.drop 1 }
      tel := { s.tel with resyncCount := satinc32 s.tel.resyncCount }
      status := s.status ++ [.error (.magicLost b)] } := rfl

/-- `SCAN_MAGIC` over a window that is the magic only moves on to the header (R204). -/
theorem scanStep_of_magic {s : State} (h : s.parser.buf.take 4 = magic) : scanStep s = setPstate .readHeader s :=
  if_pos ((magicAtFront_iff s).2 h)

/-- `SCAN_MAGIC` over any other window discards its first byte (R204). -/
theorem scanStep_of_noise {s : State} (h : s.parser.buf.take 4 ≠ magic) :
    scanStep s = loseMagic (byteAt s.parser.buf 0) s :=
  if_neg (mt (magicAtFront_iff s).1 h)

/-- An enabled parser operation has its step's effect (R200). -/
theorem exec_parserOp_of_ready {p : ParserState} {s : State} (h : parserReady p s = true) :
    exec (parserOp p) s = .next (parserEffect p s) := by
  rw [exec_parserOp, if_pos h]

/-- A header's effect is that of a command header, of an event header with a count in its range, or a discarded byte (R205). -/
theorem headerStep_cases (s : State) :
    (∃ b, magicAtFront s = false ∧ headerStep s = loseMagic b s) ∨ (∃ f, headerStep s = acceptCommand f s) ∨
      (∃ c f, headerStep s = acceptEvents c f s) ∨ ∃ c, headerStep s = rejectCount c s := by
  rw [headerStep_eq]
  cases magicAtFront s with
  | false => exact .inl ⟨_, rfl, rfl⟩
  | true =>
    rw [if_pos rfl, acceptHeader]
    split_ifs
    · exact .inr (.inl ⟨_, rfl⟩)
    · exact .inr (.inr (.inl ⟨_, _, rfl⟩))
    · exact .inr (.inr (.inr ⟨_, rfl⟩))

/-- What no step of the parser touches (R81). -/
theorem parserEffect_frame (p : ParserState) (s : State) :
    (parserEffect p s).cfg = s.cfg ∧ (parserEffect p s).sess = s.sess ∧ (parserEffect p s).txIdx = s.txIdx ∧
    (parserEffect p s).pump = s.pump ∧ (parserEffect p s).recent = s.recent ∧ (parserEffect p s).pool = s.pool ∧
    (parserEffect p s).usb = s.usb ∧ (parserEffect p s).ret = s.ret ∧ (parserEffect p s).sched = s.sched ∧
    (parserEffect p s).draws = s.draws := by
  cases p with
  | scanMagic => simp only [parserEffect, scanStep]; split <;> simp
  | readHeader =>
    rcases headerStep_cases s with ⟨b, -, e⟩ | ⟨f, e⟩ | ⟨c, f, e⟩ | ⟨c, e⟩ <;> simp [parserEffect, e]
  | readEvents => simp [parserEffect, recordStep]
  | readCommand => simp [parserEffect, commandStep]

/-- An enabled step takes bytes from the front of the buffer, or is the scan's match, which takes none (R204 to R207, R215). -/
theorem parserEffect_progress {p : ParserState} {s : State} (h : parserReady p s = true) :
    (∃ n, 1 ≤ n ∧ n ≤ s.parser.buf.length ∧ (parserEffect p s).parser.buf = s.parser.buf.drop n) ∨
      (p = .scanMagic ∧ parserEffect p s = setPstate .readHeader s) := by
  obtain ⟨-, -, hlen⟩ := (parserReady_iff p s).1 h
  have hneed := (four_le_parserNeed s.cfg p).1
  have one_byte : 1 ≤ s.parser.buf.length := by omega
  have whole_unit : 1 ≤ parserNeed s.cfg p := by omega
  cases p with
  | scanMagic =>
    by_cases hm : s.parser.buf.take 4 = magic
    · exact .inr ⟨rfl, scanStep_of_magic hm⟩
    · exact .inl ⟨1, le_refl 1, one_byte, congrArg (·.parser.buf) (scanStep_of_noise hm)⟩
  | readHeader =>
    left
    rcases headerStep_cases s with ⟨b, -, e⟩ | ⟨f, e⟩ | ⟨c, f, e⟩ | ⟨c, e⟩ <;> simp only [parserEffect, e]
    · exact ⟨1, le_refl 1, one_byte, rfl⟩
    · exact ⟨_, whole_unit, hlen, acceptCommand_buf f s⟩
    · exact ⟨_, whole_unit, hlen, acceptEvents_buf c f s⟩
    · exact ⟨1, le_refl 1, one_byte, rfl⟩
  | readEvents => exact .inl ⟨_, whole_unit, hlen, acceptRecord_buf _ s⟩
  | readCommand => exact .inl ⟨_, whole_unit, hlen, acceptCommandRecord_buf _ _ s⟩

/-- Settles O17: an enabled operation has its step's effect, which shortens the buffer or is the scan's match. -/
theorem parserStepsMakeProgress : Obligations.ParserStepsMakeProgress := by
  intro s p hsess hp hlen
  have ready : parserReady p s = true := (parserReady_iff p s).2 ⟨hsess, hp, hlen⟩
  refine ⟨parserEffect p s, exec_parserOp_of_ready ready, ?progress, ?frame⟩
  case progress =>
    refine (parserEffect_progress ready).imp_right ?_
    rintro ⟨rfl, e⟩
    rw [e]
    exact ⟨rfl, by simp⟩
  case frame => apply State.ext <;> simp [parserEffect_frame]

/-! ### Coming to rest -/

/-- What every enabled step lowers: two for each byte held, and one more while scanning (R215). -/
def parserMeasure (s : State) : Nat := 2 * s.parser.buf.length + if s.parser.pstate = .scanMagic then 1 else 0

theorem parserMeasure_le (s : State) : parserMeasure s ≤ 2 * s.parser.buf.length + 1 := by
  unfold parserMeasure
  split <;> omega

theorem parserMeasure_parserEffect_lt {s : State} (h : parserEnabled s = true) :
    parserMeasure (parserEffect s.parser.pstate s) < parserMeasure s := by
  rcases parserEffect_progress h with ⟨n, hpos, hle, hbuf⟩ | ⟨hp, e⟩
  · have after := parserMeasure_le (parserEffect s.parser.pstate s)
    rw [hbuf, List.length_drop] at after
    unfold parserMeasure at after ⊢
    omega
  · rw [e]
    simp [parserMeasure, hp]

/-- A run of one step more begins with the effect of an enabled step (R200). -/
theorem parserRun_succ_of_enabled (n : Nat) {s : State} (h : parserEnabled s = true) :
    parserRun (n + 1) s = parserRun n (parserEffect s.parser.pstate s) := by
  rw [parserRun, exec_parserOp_of_ready h, resultOf]

/-- With a bound on the measure the parser is at rest within as many steps. -/
theorem exists_quiescent_of_measure_le (m : Nat) (s : State) (h : parserMeasure s ≤ m) :
    ∃ n, n ≤ m ∧ parserEnabled (parserRun n s) = false := by
  induction m generalizing s with
  | zero =>
    refine ⟨0, le_refl 0, Bool.eq_false_iff.2 fun enabled => ?_⟩
    have := parserMeasure_parserEffect_lt (s := s) enabled
    omega
  | succ m ih =>
    cases enabled : parserEnabled s with
    | false => exact ⟨0, Nat.zero_le _, enabled⟩
    | true =>
      have lower := parserMeasure_parserEffect_lt enabled
      obtain ⟨n, hn, rest⟩ := ih (parserEffect s.parser.pstate s) (by omega)
      exact ⟨n + 1, by omega, by rw [parserRun_succ_of_enabled n enabled]; exact rest⟩

/-- Settles O18: the measure is a bound on the steps, and is at most two a byte and one. -/
theorem parserReachesQuiescence : Obligations.ParserReachesQuiescence :=
  fun s => exists_quiescent_of_measure_le _ s (parserMeasure_le s)

/-! ### Resynchronisation -/

/-- `s` once the scan has discarded `noise` and `rest` is left (R204, R214, R259). -/
def afterNoise (noise rest : List Byte) (s : State) : State :=
  { s with
    parser := { s.parser with buf := rest }
    tel := { s.tel with resyncCount := satadd32 s.tel.resyncCount noise.length }
    status := s.status ++ noise.map fun b => .error (.magicLost b) }

theorem satadd32_zero (c : Word32) : satadd32 c 0 = c := by
  apply BitVec.eq_of_toNat_eq
  have := c.isLt
  rw [satadd32_toNat, capped]
  omega

theorem satadd32_satinc32 (c : Word32) (n : Nat) : satadd32 (satinc32 c) n = satadd32 c (n + 1) := by
  apply BitVec.eq_of_toNat_eq
  simp only [satadd32_toNat, satinc32_toNat, capped]
  omega

/-- A discarded byte and then more noise are one stretch of noise. -/
theorem afterNoise_loseMagic (b : Byte) (noise rest : List Byte) {s : State} (hp : s.parser.pstate = .scanMagic) :
    afterNoise noise rest (loseMagic b s) = afterNoise (b :: noise) rest s := by
  simp [afterNoise, loseMagic_eq, satadd32_satinc32, ← hp]

/-- A list that begins with the magic holds four bytes. -/
theorem four_le_of_take_eq_magic {bs : List Byte} (h : bs.take 4 = magic) : 4 ≤ bs.length := by
  have := congrArg List.length h
  simp only [List.length_take, magic, List.length_cons, List.length_nil] at this
  omega

/-- The scan discards noise in front of a magic, a byte a step (R204, R214). -/
theorem parserRun_noise (noise rest : List Byte) {s : State} (hsess : s.sess = .streaming)
    (hp : s.parser.pstate = .scanMagic) (hbuf : s.parser.buf = noise ++ rest) (hrest : rest.take 4 = magic)
    (hnoise : ∀ k, k < noise.length → (s.parser.buf.drop k).take 4 ≠ magic) :
    parserRun noise.length s = afterNoise noise rest s := by
  induction noise generalizing s with
  | nil =>
    rw [List.nil_append] at hbuf
    simp [parserRun, afterNoise, satadd32_zero, ← hbuf]
  | cons b noise ih =>
    have hlen : 4 ≤ s.parser.buf.length := by
      have := four_le_of_take_eq_magic hrest
      rw [hbuf, List.length_append]
      omega
    have enabled : parserEnabled s = true := (parserReady_iff _ s).2 ⟨hsess, rfl, by rw [hp]; exact hlen⟩
    have first : parserEffect s.parser.pstate s = loseMagic b s := by
      rw [hp]
      refine (scanStep_of_noise (hnoise 0 (Nat.succ_pos _))).trans ?_
      rw [hbuf]
      rfl
    have buf_left : (loseMagic b s).parser.buf = noise ++ rest := by
      rw [loseMagic_parser, hbuf]
      rfl
    rw [List.length_cons, parserRun_succ_of_enabled _ enabled, first, ← afterNoise_loseMagic b noise rest hp]
    refine ih (by simpa using hsess) rfl buf_left fun k hk => ?_
    have window := hnoise (k + 1) (Nat.succ_lt_succ hk)
    rwa [hbuf, List.cons_append, List.drop_succ_cons, ← buf_left] at window

/-- Settles O60: the scan discards the noise, and the window in front of it is then the magic. -/
theorem resyncAfterNoise : Obligations.ResyncAfterNoise := by
  intro s noise rest hsess hp hbuf hrest hnoise
  refine ⟨afterNoise noise rest s, parserRun_noise noise rest hsess hp hbuf hrest hnoise, rfl, rfl, satadd32_toNat _ _, rfl,
    rfl, ?_⟩
  have ready : parserReady .scanMagic (afterNoise noise rest s) = true :=
    (parserReady_iff _ _).2 ⟨hsess, hp, four_le_of_take_eq_magic hrest⟩
  exact (exec_parserOp_of_ready ready).trans (congrArg Host.Outcome.next (scanStep_of_magic hrest))

end Sys2Proof.Proofs
end

section
/-!
PROOFS. The windows and headers of the frame parser, its frame registers, and the receiver's subroutines
(spec/44_frame_parser.md R202 to R205, R209, R210; spec/60_exceptions.md R291, R292).
-/

namespace Sys2Proof.Proofs

open Sys2Proof.Machine Sys2Proof.Laws

/-! ### Windows -/

/-- A window that misses discards a byte in both states that scan for the magic (R204, R205). -/
theorem exec_scanMiss_of_ready (b0 b1 b2 b3 : Byte) {s : State}
    (h : parserReady .scanMagic s = true ∨ parserReady .readHeader s = true) :
    exec (.scanMiss b0 b1 b2 b3) s = .next (loseMagic b0 s) :=
  congrArg Host.Outcome.next (if_pos (Bool.or_eq_true_iff.2 h))

/-- Settles O11: the match moves on, and the miss is the same discarded byte in either state. -/
theorem scanUnitsComplete : Obligations.ScanUnitsComplete := by
  intro s b0 b1 b2 b3 hsess
  refine ⟨fun hp hlen => ?scan, fun hp hlen => ?header⟩
  case scan =>
    have ready : parserReady .scanMagic s = true := (parserReady_iff _ s).2 ⟨hsess, hp, hlen⟩
    refine ⟨congrArg Host.Outcome.next (if_pos ready), loseMagic b0 s, exec_scanMiss_of_ready b0 b1 b2 b3 (.inl ready), ?_,
      rfl, satinc32_toNat _, rfl, rfl⟩
    rw [loseMagic_parser, ← hp]
  case header =>
    have ready : parserReady .readHeader s = true := (parserReady_iff _ s).2 ⟨hsess, hp, hlen⟩
    exact ⟨loseMagic b0 s, exec_scanMiss_of_ready b0 b1 b2 b3 (.inr ready), rfl, rfl, satinc32_toNat _, rfl, rfl⟩

/-! ### Headers -/

/-- `s` with its header consumed and its frame begun, in `READ_HEADER` still (R205, R209). -/
def frameBegun (count frame : Word32) (s : State) : State :=
  { s with
    parser :=
      { pstate := .readHeader, buf := s.parser.buf.drop s.cfg.hdr.len, curCount := count, curFrame := frame, evLeft := 0,
        frameEvents := 0, frameBytes := BitVec.ofNat 32 s.cfg.hdr.len }
    status := s.status ++ [.frameStart frame] }

/-- `frame_start` behind the header leaves the frame so (R209). -/
theorem frameStart_dropFront (c f : Word32) {s : State} (hp : s.parser.pstate = .readHeader) :
    frameStart c f (dropFront s.cfg.hdr.len s) = frameBegun c f s := by
  apply State.ext <;> simp [frameBegun, hp]

/-- A frame of no event is done as soon as it has begun (R205). -/
theorem acceptEvents_of_zero (f : Word32) {s : State} (hp : s.parser.pstate = .readHeader) :
    acceptEvents 0 f s = setPstate .scanMagic (frameDone (frameBegun 0 f s)) := by
  rw [← frameStart_dropFront 0 f hp, acceptEvents, if_pos rfl]

/-- A frame with events waits for the first of them (R205). -/
theorem acceptEvents_of_ne {c : Word32} (f : Word32) {s : State} (hp : s.parser.pstate = .readHeader) (hc : c ≠ 0) :
    acceptEvents c f s =
      { frameBegun c f s with
        parser := { (frameBegun c f s).parser with pstate := .readEvents, evLeft := c.toNat } } := by
  rw [← frameStart_dropFront c f hp]
  exact if_neg hc

/-- A command frame waits for its record (R205). -/
theorem acceptCommand_eq (f : Word32) {s : State} (hp : s.parser.pstate = .readHeader) :
    acceptCommand f s =
      { frameBegun 0xFFFF f s with parser := { (frameBegun 0xFFFF f s).parser with pstate := .readCommand } } := by
  rw [← frameStart_dropFront _ f hp]
  rfl

/-- An event header of the strapped variant is accepted with its count, which is in the range of R89 (R205). -/
theorem exec_eventHeader {s : State} {i : Instr} {v : HdrVariant} {n : Nat} {f : Word32}
    (hi : (v = .hdr12 ∧ ((∃ c, i = .hdr12Events c f ∧ n = c.toNat) ∨ (i = .hdr12EventsMax f ∧ n = 8192))) ∨
      (v = .hdr10 ∧ ((∃ c, i = .hdr10Events c f ∧ n = c.toNat) ∨ (i = .hdr10EventsMax f ∧ n = 8192))))
    (hready : headerReady v s = true) :
    n ≤ maxCount ∧ exec i s = .next (acceptEvents (BitVec.ofNat 32 n) f s) := by
  have accepts : ∀ c, (.next (if headerReady v s then acceptEvents c f s else s) : Outcome) = .next (acceptEvents c f s) :=
    fun c => congrArg Host.Outcome.next (if_pos hready)
  rcases hi with ⟨rfl, ⟨c, rfl, rfl⟩ | ⟨rfl, rfl⟩⟩ | ⟨rfl, ⟨c, rfl, rfl⟩ | ⟨rfl, rfl⟩⟩
  · exact ⟨c.isLt.le, by rw [BitVec.ofNat_toNat]; exact accepts _⟩
  · exact ⟨le_refl _, accepts _⟩
  · exact ⟨c.isLt.le, by rw [BitVec.ofNat_toNat]; exact accepts _⟩
  · exact ⟨le_refl _, accepts _⟩

/-- Settles O12: the frame begins, and with no event to come it is done as well. -/
theorem eventHeadersComplete : Obligations.EventHeadersComplete := by
  intro s i v n f hi hsess hp hv hlen
  subst hv
  obtain ⟨hn, hexec⟩ := exec_eventHeader hi ((headerReady_iff _ s).2 ⟨rfl, (parserReady_iff _ s).2 ⟨hsess, hp, hlen⟩⟩)
  have count : (BitVec.ofNat 32 n).toNat = n := by
    rw [BitVec.toNat_ofNat, Nat.mod_eq_of_lt (hn.trans_lt (by decide))]
  refine ⟨frameBegun (BitVec.ofNat 32 n) f s, rfl, fun hpos => ?events, fun hzero => ⟨_, rfl, ?empty⟩⟩
  case events =>
    have hne : BitVec.ofNat 32 n ≠ 0 := fun e => hpos.ne' (count.symm.trans (congrArg BitVec.toNat e))
    rw [hexec, acceptEvents_of_ne f hp hne, count]
  case empty =>
    subst hzero
    exact hexec.trans (congrArg Host.Outcome.next (acceptEvents_of_zero f hp))

/-- Settles O13: the command header's frame, and the oversized header's discarded byte, in each variant. -/
theorem otherHeadersComplete : Obligations.OtherHeadersComplete := by
  intro s f hsess hp hlen
  have ready : ∀ v, s.cfg.hdr = v → headerReady v s = true := fun v hv =>
    (headerReady_iff v s).2 ⟨hv, (parserReady_iff _ s).2 ⟨hsess, hp, hlen⟩⟩
  refine ⟨fun i hi => ?command, fun i n hi => ?oversized⟩
  case command =>
    have hexec : exec i s = .next (acceptCommand f s) := by
      rcases hi with ⟨hv, rfl⟩ | ⟨hv, rfl⟩ <;> exact congrArg Host.Outcome.next (if_pos (ready _ hv))
    rw [hexec, acceptCommand_eq f hp]
    rfl
  case oversized =>
    have hexec : exec i s = .next (rejectCount (BitVec.ofNat 32 n) s) := by
      rcases hi with ⟨hv, c, rfl, rfl⟩ | ⟨hv, c, rfl, rfl⟩
      · rw [BitVec.ofNat_toNat, BitVec.setWidth_eq]
        exact congrArg Host.Outcome.next (if_pos (ready _ hv))
      · rw [BitVec.ofNat_toNat]
        exact congrArg Host.Outcome.next (if_pos (ready _ hv))
    exact ⟨_, hexec, rfl, rfl, satinc32_toNat _, rfl, rfl⟩

/-! ### The frame registers -/

/-- Settles O19: the registers each of the two writes. -/
theorem frameStartAndParserReset : Obligations.FrameStartAndParserReset := by
  intro s c f
  refine ⟨⟨frameStart c f s, rfl, rfl, rfl, rfl, rfl, rfl, rfl, ?_, rfl, rfl⟩,
    ⟨parserReset s, rfl, rfl, rfl, rfl, rfl, rfl, rfl, rfl, rfl⟩⟩
  rw [frameStart_parser]
  cases s.cfg.hdr <;> rfl

/-! ### The receiver's subroutines -/

/-- Settles O23: the registers each of the two writes, and a memory after one write. -/
theorem receiveSubroutinesComplete : Obligations.ReceiveSubroutinesComplete := by
  intro s b
  exact ⟨⟨bufferFull s, rfl, rfl, rfl, satinc32_toNat _, rfl, rfl⟩,
    ⟨recentCapture b s, rfl, memRead_memWrite_same _ _ _, fun _ ha => memRead_memWrite_other _ _ ha, rfl, rfl⟩⟩

end Sys2Proof.Proofs
end

section
/-!
PROOFS. Eager parsing never overflows (spec/44_frame_parser.md R202, R212; spec/46_flow_control.md R249): with the parser's
priority over PULL, the buffer holds exactly the bytes of a unit when the unit is executed, so an accepted unit leaves it empty, and a
complete record is there only with room in the queue.
-/

namespace Sys2Proof.Proofs

open Sys2Proof.Machine Sys2Proof.Laws

/-! ### Quiet operations -/

/-- From `s` to `t` neither BufferFull nor Queue.Overflow shows on the status port (R290). -/
def NoOverflow (s t : State) : Prop :=
  ∃ es, t.status = s.status ++ es ∧ ∀ e ∈ es, e ≠ .error .bufferFull ∧ ∀ x, e ≠ .error (.queueOverflow x)

theorem NoOverflow.trans {s u t : State} (h : NoOverflow s u) (k : NoOverflow u t) : NoOverflow s t := by
  obtain ⟨es, hstatus, hes⟩ := h
  obtain ⟨fs, kstatus, kfs⟩ := k
  refine ⟨es ++ fs, by rw [kstatus, hstatus, List.append_assoc], fun e he => ?_⟩
  exact (List.mem_append.1 he).elim (hes e) (kfs e)

/-- Where the status port stays, nothing overflows. -/
theorem noOverflow_of_status_eq {s t : State} (h : t.status = s.status) : NoOverflow s t :=
  ⟨[], by rw [h, List.append_nil], fun _ he => absurd he List.not_mem_nil⟩

/-- One event on the status port that is neither of the two. -/
theorem noOverflow_of_status_one {s t : State} {e : StatusEvent} (h : t.status = s.status ++ [e])
    (hfull : e ≠ .error .bufferFull) (hover : ∀ x, e ≠ .error (.queueOverflow x)) : NoOverflow s t :=
  ⟨[e], h, fun _ he => List.mem_singleton.1 he ▸ ⟨hfull, hover⟩⟩

theorem noOverflow_frameStart (c f : Word32) (s : State) : NoOverflow s (frameStart c f s) :=
  noOverflow_of_status_one (frameStart_status c f s) nofun nofun

theorem noOverflow_frameDone (s : State) : NoOverflow s (frameDone s) :=
  noOverflow_of_status_one (frameDone_status s) nofun nofun

theorem noOverflow_loseMagic (b : Byte) (s : State) : NoOverflow s (loseMagic b s) :=
  noOverflow_of_status_one (e := .error (.magicLost b)) rfl nofun nofun

theorem noOverflow_rejectCount (c : Word32) (s : State) : NoOverflow s (rejectCount c s) :=
  noOverflow_of_status_one (e := .error (.oversizedCount c)) rfl nofun nofun

theorem noOverflow_acceptCommand (f : Word32) (s : State) : NoOverflow s (acceptCommand f s) :=
  noOverflow_frameStart 0xFFFF f (dropFront s.cfg.hdr.len s)

/-- An event header reports its frame, begun and, where it is empty, done (R205). -/
theorem noOverflow_acceptEvents (c f : Word32) (s : State) : NoOverflow s (acceptEvents c f s) := by
  have begun : NoOverflow s (frameStart c f (dropFront s.cfg.hdr.len s)) := noOverflow_frameStart c f _
  unfold acceptEvents
  dsimp only
  split
  · exact begun.trans (noOverflow_frameDone _)
  · exact begun

/-- A push with room reports nothing (R181). -/
theorem push_status_of_room (e : Event) {s : State} (h : s.queue.count ≠ s.cfg.queueCap) : (push e s).status = s.status := by
  rw [push_regs e s h]
  simp

/-- A record that finds room drops no event (R182, R206). -/
theorem noOverflow_acceptRecord (e : Event) {s : State} (h : s.queue.count ≠ s.cfg.queueCap) :
    NoOverflow s (acceptRecord e s) := by
  have pushed : NoOverflow s (afterRecord e s) :=
    noOverflow_of_status_eq (push_status_of_room e (s := dropFront s.cfg.rcd.len s) h)
  rw [acceptRecord_eq]
  split
  · exact pushed.trans (noOverflow_frameDone _)
  · exact pushed

/-- A command record reports its frame done (R207). -/
theorem noOverflow_acceptCommandRecord (op p0 : Byte) (s : State) : NoOverflow s (acceptCommandRecord op p0 s) := by
  have dispatched : NoOverflow s (controlDispatch op p0 (dropFront cmdLen s)) := noOverflow_of_status_eq (by simp)
  exact dispatched.trans (noOverflow_frameDone _)

/-- A sample reports a forced cycle at most (R137). -/
theorem noOverflow_renderSample (s : State) : NoOverflow s (renderSample s) := by
  obtain ⟨_, _, -, -, -, -, -, -, -, -, hstatus⟩ := advanceSample_spec s
  have read : (renderSample s).status = (advanceSample s).status := by simp [renderSample]
  split at hstatus
  · exact noOverflow_of_status_one (read.trans hstatus) nofun nofun
  · exact noOverflow_of_status_eq (read.trans hstatus)

/-- PULL into a buffer with room reports nothing (R201). -/
theorem noOverflow_pullByte (b : Byte) (rest : List Byte) {s : State} (h : s.parser.buf.length ≠ s.cfg.bufSize) :
    NoOverflow s (pullByte b rest s) := by
  obtain ⟨-, -, hstatus⟩ := pullByte_of_room b rest h
  exact noOverflow_of_status_eq hstatus

/-! ### Ways to keep the discipline -/

/-- The discipline sees the parser, the straps and the depth, and a falling depth keeps it (R249). -/
theorem eagerOk_congr {s t : State} (h : EagerOk s) (hp : t.parser = s.parser) (hc : t.cfg = s.cfg)
    (hn : t.queue.count ≤ s.queue.count) : EagerOk t := by
  have hm : magicAtFront t = magicAtFront s := by rw [magicAtFront, magicAtFront, hp]
  refine ⟨?_, ?_, ?_, ?_, ?_, ?_⟩
  · rw [hp, hc]; exact h.scan
  · rw [hp, hc, hm]; exact h.header
  · rw [hp, hc]; exact h.events
  · rw [hp]; exact h.command
  · rw [hp, hc]; exact fun hq hl => hn.trans_lt (h.room hq hl)
  · rw [hc]; exact hn.trans h.below

/-- While scanning, less than a header is held (R212). -/
theorem eagerOk_of_scanning {t : State} (hp : t.parser.pstate = .scanMagic) (hb : t.parser.buf.length < t.cfg.hdr.len)
    (hn : t.queue.count ≤ t.cfg.highWm) : EagerOk t := by
  refine ⟨fun _ => hb, ?_, ?_, ?_, ?_, hn⟩ <;> rw [hp] <;> exact nofun

/-- With the buffer empty and no header awaited, the depth alone counts (R212). -/
theorem eagerOk_of_empty {t : State} (hb : t.parser.buf = []) (hp : t.parser.pstate ≠ .readHeader)
    (hn : t.queue.count ≤ t.cfg.highWm) : EagerOk t := by
  have hlen : t.parser.buf.length = 0 := by rw [hb]; rfl
  have hpos := unit_len_bounds t.cfg.hdr t.cfg.rcd
  exact ⟨fun _ => by omega, fun h => absurd h hp, fun _ => by omega, fun _ => by omega, fun _ _ => by omega, hn⟩

/-! ### The parser's turn -/

/-- Outside the scan an enabled step finds exactly its unit in the buffer (R212). -/
theorem length_eq_parserNeed {p : ParserState} {s : State} (h : EagerOk s) (hr : parserReady p s = true)
    (hp : p ≠ .scanMagic) : s.parser.buf.length = parserNeed s.cfg p := by
  obtain ⟨-, rfl, hneed⟩ := (parserReady_iff p s).1 hr
  refine le_antisymm ?_ hneed
  cases hq : s.parser.pstate with
  | scanMagic => exact absurd hq hp
  | readHeader => exact (h.header hq).1
  | readEvents => exact h.events hq
  | readCommand => exact h.command hq

/-- ... so that nothing is left once the unit is consumed. -/
theorem drop_parserNeed {p : ParserState} {s : State} (h : EagerOk s) (hr : parserReady p s = true)
    (hp : p ≠ .scanMagic) : s.parser.buf.drop (parserNeed s.cfg p) = [] :=
  List.drop_eq_nil_of_le (length_eq_parserNeed h hr hp).le

/-- The scan keeps the discipline: its match has the magic at the front, its miss leaves less than a header (R204). -/
theorem eagerOk_scanStep {s : State} (h : EagerOk s) (hr : parserReady .scanMagic s = true) : EagerOk (scanStep s) := by
  obtain ⟨-, hp, -⟩ := (parserReady_iff _ s).1 hr
  have hlen := h.scan hp
  by_cases hm : s.parser.buf.take 4 = magic
  · rw [scanStep_of_magic hm]
    exact ⟨nofun, fun _ => ⟨hlen.le, (magicAtFront_iff s).2 hm⟩, nofun, nofun, nofun, h.below⟩
  · rw [scanStep_of_noise hm]
    refine eagerOk_of_scanning rfl ?_ h.below
    simp [loseMagic_parser]
    omega

/-- A header keeps the discipline: accepted it leaves nothing, rejected it leaves less than a header; the magic is not lost
(R205, R212). -/
theorem eagerOk_headerStep {s : State} (h : EagerOk s) (hr : parserReady .readHeader s = true) : EagerOk (headerStep s) := by
  obtain ⟨-, hp, -⟩ := (parserReady_iff _ s).1 hr
  have consumed : s.parser.buf.drop s.cfg.hdr.len = [] := drop_parserNeed h hr nofun
  rcases headerStep_cases s with ⟨b, hm, -⟩ | ⟨f, e⟩ | ⟨c, f, e⟩ | ⟨c, e⟩
  · exact absurd (hm.symm.trans (h.header hp).2) nofun
  · rw [e]
    exact eagerOk_of_empty ((acceptCommand_buf f s).trans consumed) nofun h.below
  · rw [e]
    refine eagerOk_of_empty ((acceptEvents_buf c f s).trans consumed) ?_ (by simpa using h.below)
    unfold acceptEvents
    dsimp only
    split <;> simp
  · rw [e]
    refine eagerOk_of_scanning rfl ?_ h.below
    have hlen := (h.header hp).1
    have hpos := unit_len_bounds s.cfg.hdr s.cfg.rcd
    simp [rejectCount_parser]
    omega

/-- A complete record is there only with room below the high watermark, so in the ring too (R249). -/
theorem room_of_record {s : State} (h : EagerOk s) (hr : parserReady .readEvents s = true) : s.queue.count < s.cfg.highWm :=
  h.room ((parserReady_iff _ s).1 hr).2.1 (length_eq_parserNeed h hr nofun)

/-- A push with room makes the queue one deeper (R181). -/
theorem push_count_of_room (e : Event) {s : State} (h : s.queue.count ≠ s.cfg.queueCap) :
    (push e s).queue.count = s.queue.count + 1 := by
  rw [push_regs e s h]
  simp

/-- A record keeps the discipline: it leaves nothing, and the depth it makes is at most the watermark (R206, R249). -/
theorem eagerOk_acceptRecord {s : State} (e : Event) (h : EagerOk s) (hr : parserReady .readEvents s = true)
    (hcap : s.queue.count ≠ s.cfg.queueCap) : EagerOk (acceptRecord e s) := by
  have hroom := room_of_record h hr
  have hp := ((parserReady_iff _ s).1 hr).2.1
  refine eagerOk_of_empty ((acceptRecord_buf e s).trans (drop_parserNeed h hr nofun)) ?_ ?_
  · rw [acceptRecord_eq]
    split
    · nofun
    · simp [afterRecord, hp]
  · rw [(acceptRecord_queue e s).1, push_count_of_room e (s := dropFront s.cfg.rcd.len s) hcap, (acceptRecord_frame e s).1]
    exact hroom

/-- An enabled step of the parser keeps the discipline and overflows nothing (R202, R212, R249). -/
theorem eagerOk_parserEffect {s : State} (hi : Inv s) (h : EagerOk s) (hr : parserEnabled s = true) :
    EagerOk (parserEffect s.parser.pstate s) ∧ NoOverflow s (parserEffect s.parser.pstate s) := by
  unfold parserEnabled at hr
  cases hp : s.parser.pstate with
  | scanMagic =>
    refine ⟨eagerOk_scanStep h (hp ▸ hr), ?_⟩
    simp only [parserEffect, scanStep]
    split
    · exact noOverflow_of_status_eq rfl
    · exact noOverflow_loseMagic _ s
  | readHeader =>
    refine ⟨eagerOk_headerStep h (hp ▸ hr), ?_⟩
    simp only [parserEffect]
    rcases headerStep_cases s with ⟨b, -, e⟩ | ⟨f, e⟩ | ⟨c, f, e⟩ | ⟨c, e⟩ <;> rw [e]
    · exact noOverflow_loseMagic b s
    · exact noOverflow_acceptCommand f s
    · exact noOverflow_acceptEvents c f s
    · exact noOverflow_rejectCount c s
  | readEvents =>
    rw [hp] at hr
    obtain ⟨-, -, -, -, -, -, -, -, hwm⟩ := valid_bounds hi.valid
    have hcap : s.queue.count ≠ s.cfg.queueCap := ((room_of_record h hr).trans_le hwm).ne
    exact ⟨eagerOk_acceptRecord _ h hr hcap, noOverflow_acceptRecord _ hcap⟩
  | readCommand =>
    rw [hp] at hr
    refine ⟨eagerOk_of_empty ((acceptCommandRecord_buf _ _ s).trans (drop_parserNeed h hr nofun)) nofun ?_,
      noOverflow_acceptCommandRecord _ _ s⟩
    simpa [parserEffect, commandStep] using h.below

/-! ### The other turns -/

/-- PULL keeps the discipline: it runs while a byte of the unit is missing, so at most completes it, and a record it completes
has the room that the clear flow flag tells of (R211, R212, R249). -/
theorem eagerOk_pullByte (b : Byte) (rest : List Byte) {s : State} (hi : Inv s) (h : EagerOk s)
    (he : s.cfg.eagerParse = true) (ha : pullAllowed s = true) :
    EagerOk (pullByte b rest s) ∧ NoOverflow s (pullByte b rest s) := by
  obtain ⟨hstr, hopen, hwaits⟩ := (pullAllowed_iff s).1 ha
  have missing : s.parser.buf.length < parserNeed s.cfg s.parser.pstate := by
    by_contra hle
    exact absurd ((parserReady_iff _ s).2 ⟨hstr, rfl, Nat.le_of_not_lt hle⟩) (by rw [← parserEnabled, hwaits he]; nofun)
  have hneed := (four_le_parserNeed s.cfg s.parser.pstate).2
  obtain ⟨-, hB, -⟩ := valid_bounds hi.valid
  have room : s.parser.buf.length ≠ s.cfg.bufSize := by omega
  obtain ⟨hparser, -, -⟩ := pullByte_of_room b rest room
  have hcfg : (pullByte b rest s).cfg = s.cfg := by simp
  have hqueue : (pullByte b rest s).queue = s.queue := by simp
  have at_most_unit : ∀ p, (pullByte b rest s).parser.pstate = p →
      (pullByte b rest s).parser.buf.length ≤ parserNeed (pullByte b rest s).cfg p := by
    rintro _ rfl
    rw [hparser, hcfg, List.length_append]
    exact missing
  refine ⟨⟨fun hp => ?scan, fun hp => ⟨at_most_unit _ hp, ?magic⟩, at_most_unit _, at_most_unit _, fun _ _ => ?room,
    ?below⟩, noOverflow_pullByte b rest room⟩
  case scan =>
    have hheader := (unit_len_bounds (pullByte b rest s).cfg.hdr s.cfg.rcd).1
    exact (at_most_unit _ hp).trans_lt ((show 4 < 10 by decide).trans_le hheader)
  case magic =>
    rw [hparser] at hp
    rw [magicAtFront_iff, hparser, List.take_append_of_le_length (hi.parser.header hp)]
    exact (magicAtFront_iff s).1 (h.header hp).2
  case room => rw [hqueue, hcfg]; exact hi.clock.flow hopen
  case below => rw [hqueue, hcfg]; exact h.below

/-- A sample never adds an event (R141). -/
theorem renderSample_count_le (s : State) : (renderSample s).queue.count ≤ s.queue.count := by
  obtain ⟨_, _, -, -, -, -, -, -, hcount, -⟩ := advanceSample_spec s
  simpa [renderSample] using hcount

/-- A session's beginning or end leaves the discipline of an empty buffer and an empty queue (R271, R273). -/
theorem eagerOk_of_reset {t : State} (hp : t.parser = {}) (hn : t.queue.count = 0) : EagerOk t :=
  eagerOk_of_empty (by rw [hp]) (by rw [hp]; nofun) (by omega)

/-- Under eager parsing every turn but the parser's and a test port's push keeps the discipline and overflows nothing. -/
theorem eagerOk_turnResult {c : Choice} {s t : State} (hi : Inv s) (h : EagerOk s) (he : s.cfg.eagerParse = true)
    (hparse : c ≠ .parse) (hpush : ∀ m a v d, c ≠ .queueEvent m a v d) (hr : TurnResult s c t) :
    EagerOk t ∧ NoOverflow s t := by
  have silent : ∀ {u : State}, u.parser = s.parser → u.cfg = s.cfg → u.queue = s.queue → u.status = s.status →
      EagerOk u ∧ NoOverflow s u :=
    fun hp hc hq hs => ⟨eagerOk_congr h hp hc (by rw [hq]), noOverflow_of_status_eq hs⟩
  have sampled : EagerOk (renderSample s) ∧ NoOverflow s (renderSample s) :=
    ⟨eagerOk_congr h (by simp) (by simp) (renderSample_count_le s), noOverflow_renderSample s⟩
  cases hr with
  | unit => exact absurd rfl hparse
  | attach =>
    exact ⟨eagerOk_of_reset (by simp [attachSession]) (by simp [attachSession, engineReset]),
      noOverflow_of_status_eq (by simp)⟩
  | detach =>
    exact ⟨eagerOk_of_reset (by simp [detachSession]) (by simp [detachSession]),
      noOverflow_of_status_one (e := .error .sessionReset) (by simp [detachSession]) nofun nofun⟩
  | sendReady _ n => exact silent (by simp) (by simp) (by simp) (by simp)
  | pull b rest ha => exact eagerOk_pullByte b rest hi h he ha
  | pumpAcquire =>
    refine ⟨eagerOk_congr h (by simp) (by simp) (by simp), ?_⟩
    rcases pumpAcquire_cases s with e | e | ⟨b, -, -, e⟩ <;> rw [e]
    · exact noOverflow_of_status_eq rfl
    · exact noOverflow_of_status_one (raise_status _ s) nofun nofun
    · exact noOverflow_of_status_eq rfl
  | pumpRender =>
    rcases pumpRender_cases s with e | ⟨-, -, e⟩ <;> rw [e]
    · exact silent rfl rfl rfl rfl
    · exact ⟨eagerOk_congr sampled.1 rfl rfl (le_refl _), sampled.2⟩
  | pumpCommit => exact silent (by simp) (by simp) (by simp) (by simp)
  | sinkFree => exact silent (by simp) (by simp) (by simp) (by simp)
  | queueEvent m a v d => exact absurd rfl (hpush m a v d)
  | renderSample r => exact ⟨eagerOk_congr sampled.1 rfl rfl (le_refl _), sampled.2⟩
  | getMonitor r => exact silent (by simp) (by simp) (by simp) (by simp)
  | answers _ r => exact silent rfl rfl rfl rfl
  | environment c => exact silent (by simp) (by simp) (by simp) (by simp)

/-! ### A step -/

/-- The parser's turn is its enabled step, or nothing (R200, R204 to R207). -/
theorem parse_turn_cases {s t : State} (hc : (nextTurn s).1 = .parse) (h : step s = .next t) :
    t = (nextTurn s).2 ∨
      parserEnabled (nextTurn s).2 = true ∧ t = parserEffect (nextTurn s).2.parser.pstate (nextTurn s).2 := by
  obtain ⟨hv, -⟩ := step_cases h
  rw [step, if_pos hv, hc] at h
  cases hr : parserEnabled (nextTurn s).2 with
  | true =>
    obtain ⟨i, hfetch, hexec⟩ := exists_unit_of_parserEnabled hr
    simp only [turnInstr, hfetch, hexec, exec_parserOp_of_ready hr] at h
    cases h
    exact .inr ⟨rfl, rfl⟩
  | false =>
    have none_fetched : fetchUnit (nextTurn s).2 = none := by rw [fetchUnit, hr]; rfl
    simp only [turnInstr, none_fetched] at h
    cases h
    exact .inl rfl

/-- The discipline does not see the schedule. -/
theorem eagerOk_nextTurn {s : State} (h : EagerOk s) : EagerOk (nextTurn s).2 := by
  rw [nextTurn_eq]
  exact eagerOk_congr h rfl rfl (le_refl _)

/-- Settles O55: the parser's turn by its enabled step, any other by the cases of what a turn can do. -/
theorem eagerParsingNeverOverflows : Obligations.EagerParsingNeverOverflows := by
  intro s t hi h he hpush hstep
  have hi := inv_nextTurn hi
  have h := eagerOk_nextTurn h
  have taken : (nextTurn s).2.cfg = s.cfg ∧ (nextTurn s).2.status = s.status := by
    rw [nextTurn_eq]
    exact ⟨rfl, rfl⟩
  obtain ⟨hcfg, hstatus⟩ := taken
  have outcome : EagerOk t ∧ NoOverflow (nextTurn s).2 t := by
    by_cases hc : (nextTurn s).1 = .parse
    · rcases parse_turn_cases hc hstep with rfl | ⟨hr, rfl⟩
      · exact ⟨h, noOverflow_of_status_eq rfl⟩
      · exact eagerOk_parserEffect hi h hr
    · exact eagerOk_turnResult hi h (hcfg ▸ he) hc hpush (step_cases hstep).2
  obtain ⟨hkept, es, hes, hquiet⟩ := outcome
  exact ⟨hkept, es, by rw [hes, hstatus], hquiet⟩

end Sys2Proof.Proofs
end

section
/-!
PROOFS. The flow controller (spec/46_flow_control.md): `flow_update` as a hysteresis (O34).
-/

namespace Sys2Proof.Proofs

open Sys2Proof.Machine Sys2Proof.Laws

/-- `flow_update` on its port (R246). -/
theorem exec_flowUpdate (s : State) : exec .flowUpdate s = .next (flowUpdate s) := rfl

/-- The flow update obeys the hysteresis at the depth it finds (R246). -/
theorem flowed_flowUpdate (s : State) : Flowed s (flowUpdate s) := flowed_of_paused (by simp)

/-- Settles O34: below `HIGH_WM` a clear flag stays clear, above `LOW_WM` a set one stays set, and at the watermarks each turns. -/
theorem flowUpdateIsHysteresis : Obligations.FlowUpdateIsHysteresis := by
  intro s _
  obtain ⟨whenClear, whenSet⟩ := flowed_flowUpdate s
  simp only [flowUpdate_frame] at whenClear whenSet
  refine ⟨flowUpdate s, exec_flowUpdate s, fun hp => (whenClear hp).mpr, fun hp => (whenSet hp).mpr, ?_, ?_, rfl⟩
  · intro hp below
    exact Bool.eq_false_iff.mpr fun set => absurd ((whenClear hp).mp set) (Nat.not_le.mpr below)
  · intro hp above
    exact Bool.of_not_eq_false fun clear => absurd ((whenSet hp).mp clear) (Nat.not_le.mpr above)

end Sys2Proof.Proofs
end

section
/-!
PROOFS. Frame accounting (spec/47_telemetry.md R256, R257, R260): what `frame_done` and `drift_update` leave in the telemetry
registers.
-/

namespace Sys2Proof.Proofs

open Sys2Proof.Machine Sys2Proof.Laws

/-- The first frame of a session sets the offset, so its drift is zero (R257). -/
theorem driftUpdate_of_first (f : Word32) {s : State} (h : s.tel.offsetValid = false) :
    (driftUpdate f s).tel.frameOffset = f - s.tel.framesTotal ∧ (driftUpdate f s).tel.drift = 0 := by
  have offset : offsetAfter s.tel.offsetValid s.tel.frameOffset f s.tel.framesTotal = f - s.tel.framesTotal := by
    rw [h]
    rfl
  exact ⟨offset, (congrArg (f - s.tel.framesTotal - ·) offset).trans (BitVec.sub_self _)⟩

/-- A later frame keeps the offset and is measured against it (R257). -/
theorem driftUpdate_of_later (f : Word32) {s : State} (h : s.tel.offsetValid = true) :
    (driftUpdate f s).tel.frameOffset = s.tel.frameOffset ∧
    (driftUpdate f s).tel.drift = f - s.tel.framesTotal - s.tel.frameOffset := by
  have offset : offsetAfter s.tel.offsetValid s.tel.frameOffset f s.tel.framesTotal = s.tel.frameOffset := by
    rw [h]
    rfl
  exact ⟨offset, congrArg (f - s.tel.framesTotal - ·) offset⟩

/-- Settles O20: the sums saturate as `satinc32` and `satadd32` do, and the drift is that of `drift_update` on the state before
the frame is counted. -/
theorem frameDoneAccounts : Obligations.FrameDoneAccounts := by
  intro s f
  refine ⟨⟨frameDone s, rfl, satinc32_toNat _, satadd32_toNat _ _, satadd32_toNat _ _, rfl, rfl, rfl, ?drift, rfl, rfl, rfl,
    frameDone_status s, rfl⟩, ⟨driftUpdate f s, rfl, rfl, driftUpdate_of_first f, driftUpdate_of_later f, rfl⟩⟩
  case drift => exact ⟨driftUpdate s.parser.curFrame s, rfl, rfl, rfl, rfl⟩

end Sys2Proof.Proofs
end

section
/-!
PROOFS. Telemetry never feeds back (spec/47_telemetry.md R255). An operation is `Blind` when it leaves the same state, telemetry
masked, whether or not telemetry was masked before it. Blind operations compose and may branch on what the mask leaves, so every
operation's blindness is read off its parts; so is a step's, whose turn and unit the mask leaves as they are.
-/

namespace Sys2Proof.Proofs

open Sys2Proof.Machine Sys2Proof.Laws

/-! ### Blindness, and how blind operations combine -/

/-- What `f` leaves outside telemetry does not depend on telemetry. -/
def Blind (f : State → State) : Prop := ∀ s, maskTelemetry (f (maskTelemetry s)) = maskTelemetry (f s)

/-- The same of an operation with an outcome. -/
def BlindOp (o : State → Outcome) : Prop := ∀ s, maskOutcome (o (maskTelemetry s)) = maskOutcome (o s)

/-- The mask leaves the pool and the transport. -/
@[simp] theorem maskTelemetry_frame (s : State) :
    (maskTelemetry s).pool = s.pool ∧ (maskTelemetry s).usb = s.usb := ⟨rfl, rfl⟩

theorem blind_id : Blind fun s => s := fun _ => rfl

/-- One blind operation after another. -/
theorem Blind.seq {f g : State → State} (hf : Blind f) (hg : Blind g) : Blind fun s => g (f s) := by
  intro s
  calc maskTelemetry (g (f (maskTelemetry s)))
      = maskTelemetry (g (maskTelemetry (f (maskTelemetry s)))) := (hg _).symm
    _ = maskTelemetry (g (maskTelemetry (f s))) := by rw [hf s]
    _ = maskTelemetry (g (f s)) := hg _

/-- An operation with an operand read from what the mask leaves. -/
theorem Blind.reading {α : Type} {g : State → α} {f : α → State → State} (hg : ∀ s, g (maskTelemetry s) = g s)
    (hf : ∀ a, Blind (f a)) : Blind fun s => f (g s) s := by
  intro s
  simpa only [hg s] using hf (g s) s

/-- A branch on what the mask leaves. -/
theorem Blind.ite {c : State → Prop} [DecidablePred c] {f g : State → State} (hc : ∀ s, c (maskTelemetry s) ↔ c s)
    (hf : Blind f) (hg : Blind g) : Blind fun s => if c s then f s else g s := by
  intro s
  by_cases h : c s
  · simpa only [if_pos h, if_pos ((hc s).mpr h)] using hf s
  · simpa only [if_neg h, if_neg (mt (hc s).mp h)] using hg s

/-- A blind operation that waits under a guard on what the mask leaves. -/
theorem Blind.guarded {c : State → Prop} [DecidablePred c] {f : State → State} (hc : ∀ s, c (maskTelemetry s) ↔ c s)
    (hf : Blind f) : Blind fun s => if c s then f s else s := .ite hc hf blind_id

/-- An operation that always completes is as blind as its effect. -/
theorem Blind.next {f : State → State} (hf : Blind f) : BlindOp fun s => .next (f s) :=
  fun s => congrArg Host.Outcome.next (hf s)

/-- What is answered on the port may show telemetry: it is masked with it. -/
theorem Blind.answers {f : State → State} (hf : Blind f) (v : State → PortValue) :
    BlindOp fun s => .next (answer (v s) (f s)) := fun s => congrArg Host.Outcome.next (hf s)

/-- A branch on what the mask leaves, between outcomes. -/
theorem BlindOp.ite {c : State → Prop} [DecidablePred c] {o p : State → Outcome} (hc : ∀ s, c (maskTelemetry s) ↔ c s)
    (ho : BlindOp o) (hp : BlindOp p) : BlindOp fun s => if c s then o s else p s := by
  intro s
  by_cases h : c s
  · simpa only [if_pos h, if_pos ((hc s).mpr h)] using ho s
  · simpa only [if_neg h, if_neg (mt (hc s).mp h)] using hp s

/-- A refused operation leaves no state to compare. -/
theorem blindOp_refused (r : Refusal) : BlindOp fun _ => .refused r := fun _ => rfl

/-! ### The queue -/

/-- `drop_oldest` counts the event it drops and looks at no count of drops (R182, R188). -/
theorem blind_dropOldest : Blind dropOldest := by
  intro s
  have advance : Blind fun u =>
      { raise (.queueOverflow (headEvent s)) u with queue.head := ringNext u u.queue.head, queue.count := u.queue.count - 1 } :=
    fun _ => rfl
  have merge : Blind fun u =>
      if u.queue.count > 0 then setRingDelta u.queue.head ((headEvent u).delta + (headEvent s).delta) u else u :=
    .guarded (fun _ => Iff.rfl) fun _ => rfl
  have count : Blind fun u => { u with queue.droppedCount := satinc32 u.queue.droppedCount } := fun _ => rfl
  exact ((advance.seq merge).seq count) s

/-- `push` raises `queue_peak` and looks at no peak (R181, R258). -/
theorem blind_push (e : Event) : Blind (push e) := by
  have room : Blind fun s => if s.queue.count = s.cfg.queueCap then dropOldest s else s :=
    .guarded (fun _ => Iff.rfl) blind_dropOldest
  have store : Blind fun s => flowUpdate (storeTail e s) := fun _ => rfl
  exact room.seq store

theorem blind_popHead : Blind popHead := fun _ => rfl

theorem blind_queueReset : Blind queueReset := fun _ => rfl

/-! ### The cells and the commands -/

theorem blind_callCell (c : CellId) (k : CellCall) : Blind (callCell c k) := by
  cases c <;> exact fun _ => rfl

theorem blind_callCells (c : CellId) (ks : List CellCall) : Blind (callCells c ks) := by
  intro s
  rw [callCells_eq, callCells_eq]
  cases c <;> rfl

theorem blind_cellInit (c : CellId) : Blind (cellInit c) :=
  fun s => blind_callCells c (initCalls s.cfg s.engine.modelMode c) s

theorem blind_cellConstruct (c : CellId) : Blind (cellConstruct c) := fun s => blind_callCells c (constructCalls s.cfg) s

theorem blind_cellWrite (c : CellId) (a : SidAddr) (v : Byte) : Blind (cellWrite c a v) := by
  intro s
  cases c
  · rw [cellWrite_a, cellWrite_a]
    rfl
  · rw [cellWrite_b, cellWrite_b]
    rfl

theorem blind_applyEvent (e : Event) : Blind (applyEvent e) := by
  intro s
  rw [applyEvent_eq, applyEvent_eq]
  rfl

/-- The engine's reset clears `dropped_count` whatever it was (R150). -/
theorem blind_engineReset : Blind engineReset := by
  have clear : Blind fun s => { queueReset s with queue.droppedCount := 0, engine.acc := 0 } := fun _ => rfl
  exact (clear.seq (blind_cellInit .a)).seq (blind_cellInit .b)

theorem blind_cycleMode : Blind cycleMode := by
  intro s
  rw [cycleMode_eq, cycleMode_eq]
  rfl

theorem blind_controlDispatch (op p0 : Byte) : Blind (controlDispatch op p0) :=
  .ite (c := fun _ => op = 0x01) (fun _ => Iff.rfl) blind_cycleMode <|
  .ite (c := fun _ => op = 0x02) (fun _ => Iff.rfl) (fun _ => rfl) <|
  .guarded (c := fun _ => op = 0x03) (fun _ => Iff.rfl) fun _ => rfl

/-! ### A sample -/

theorem blind_drainLoop (n : Nat) : Blind (drainLoop n) := by
  induction n with
  | zero => exact blind_id
  | succ n ih =>
    have turn : Blind fun s => drainLoop n (applyEvent (headEvent s) (popHead s)) :=
      fun s => ((blind_popHead.seq (blind_applyEvent (headEvent s))).seq ih) s
    exact .guarded (c := fun s => s.queue.count > 0 ∧ headDelta s = 0) (fun _ => Iff.rfl) turn

theorem blind_drainZero : Blind drainZero := fun s => blind_drainLoop s.queue.count s

/-- The events at the front that have become due are played (R139). -/
def playDue (s : State) : State :=
  if headDelta s = 0 then drainZero (applyEvent (headEvent s) (popHead s)) else s

/-- One segment of `run` cycles (R139). -/
def playSegment (run : Nat) (s : State) : State :=
  if s.queue.count > 0 then playDue (consumeCycles run (clockBoth run s)) else clockBoth run s

/-- The segment loop plays one segment per turn (R139). -/
theorem segments_succ (n cycles : Nat) (s : State) :
    segments (n + 1) cycles s =
      if cycles = 0 then s else segments n (cycles - segmentRun cycles s) (playSegment (segmentRun cycles s) s) := by
  simp only [segments, playSegment, playDue, clockBoth_frame]
  split_ifs <;> rfl

theorem blind_playDue : Blind playDue :=
  .guarded (fun _ => Iff.rfl) fun s => ((blind_popHead.seq (blind_applyEvent (headEvent s))).seq blind_drainZero) s

theorem blind_playSegment (run : Nat) : Blind (playSegment run) := by
  have clock : Blind (clockBoth run) := fun _ => rfl
  have consume : Blind (consumeCycles run) := fun _ => rfl
  exact .ite (c := fun s => s.queue.count > 0) (fun _ => Iff.rfl) ((clock.seq consume).seq blind_playDue) clock

theorem blind_segments (n cycles : Nat) : Blind (segments n cycles) := by
  induction n generalizing cycles with
  | zero => exact blind_id
  | succ n ih =>
    rw [funext (segments_succ n cycles)]
    exact .ite (c := fun _ => cycles = 0) (fun _ => Iff.rfl) blind_id
      fun s => ((blind_playSegment (segmentRun cycles s)).seq (ih (cycles - segmentRun cycles s))) s

theorem blind_takeBudget : Blind takeBudget := by
  intro s
  rw [takeBudget_eq, takeBudget_eq]
  rfl

theorem blind_advanceSample : Blind advanceSample := by
  have loop : ∀ cycles, Blind fun u => segments (u.queue.count + 1) cycles u :=
    fun cycles u => blind_segments (u.queue.count + 1) cycles u
  exact fun s => ((blind_takeBudget.seq blind_drainZero).seq (loop (cycleBudget s.cfg s.engine.acc))) s

theorem blind_renderSample : Blind renderSample := by
  have read : Blind readOutputs := fun _ => rfl
  exact blind_advanceSample.seq read

theorem outputNow_maskTelemetry (c : CellId) (s : State) : outputNow (maskTelemetry s) c = outputNow s c := by
  cases c <;> rfl

/-- The frame rendered does not depend on telemetry. -/
theorem sampleFrame_maskTelemetry (s : State) : sampleFrame (maskTelemetry s) = sampleFrame s := by
  have outputs : ∀ c, outputNow (advanceSample (maskTelemetry s)) c = outputNow (advanceSample s) c := by
    intro c
    rw [← outputNow_maskTelemetry, blind_advanceSample, outputNow_maskTelemetry]
  show frameOf s.cfg _ _ = frameOf s.cfg _ _
  rw [outputs, outputs]

/-! ### The pump and the sink -/

theorem blind_pumpAcquire : Blind pumpAcquire := by
  intro s
  cases ha : s.pump.active with
  | true => rw [pumpAcquire_of_active ha, pumpAcquire_of_active (s := maskTelemetry s) ha]; rfl
  | false =>
    cases hb : firstFree s.pool.buffers with
    | none => rw [pumpAcquire_of_none_free ha hb, pumpAcquire_of_none_free (s := maskTelemetry s) ha hb]; rfl
    | some b => rw [pumpAcquire_of_free ha hb, pumpAcquire_of_free (s := maskTelemetry s) ha hb]; rfl

/-- A frame goes to its place in `AUDIO` and `pump_idx` moves on (R167). -/
def storeFrame (x : Frame) (s : State) : State :=
  { s with
    pool.audio := memWrite s.pool.audio (audioAddr s.cfg s.pump.buf s.pump.idx) x
    pump.idx := s.pump.idx + 1 }

theorem blind_pumpRender : Blind pumpRender := by
  have store : ∀ x, Blind (storeFrame x) := fun _ _ => rfl
  have render : Blind fun s => storeFrame (sampleFrame s) (renderSample s) :=
    .reading (f := fun x s => storeFrame x (renderSample s)) sampleFrame_maskTelemetry fun x => blind_renderSample.seq (store x)
  exact .guarded (c := fun s => (s.pump.active && s.pump.idx < s.cfg.frames) = true) (fun _ => Iff.rfl) render

theorem blind_pumpCommit : Blind pumpCommit :=
  .guarded (c := fun s => (s.pump.active && s.pump.idx = s.cfg.frames) = true) (fun _ => Iff.rfl) fun _ => rfl

theorem blind_sinkFree : Blind sinkFree := by
  intro s
  cases h : s.pool.full <;> simp only [sinkFree, maskTelemetry_frame, h] <;> rfl

theorem blindOp_takeFree : BlindOp execTakeFree := by
  intro s
  cases h : firstFree s.pool.buffers <;> simp only [execTakeFree, maskTelemetry_frame, h] <;> rfl

theorem blindOp_giveFull (b : Nat) : BlindOp (execGiveFull b) :=
  .ite (c := fun s => s.pool.buffers.length ≤ b) (fun _ => Iff.rfl) (fun _ => rfl) <|
  .ite (c := fun s => bufferTaken s b = true) (fun _ => Iff.rfl) (fun _ => rfl) (blindOp_refused .bufferNotTaken)

/-! ### The receiver and the session -/

/-- PULL captures its byte in the recent-bytes ring and counts a full buffer; it looks at neither (R201 to R203). -/
theorem blind_pullByte (b : Byte) (rest : List Byte) : Blind (pullByte b rest) := by
  have take : Blind fun s => { s with usb.rx := rest } := fun _ => rfl
  have room : Blind fun s => if s.parser.buf.length = s.cfg.bufSize then bufferFull s else s :=
    .guarded (fun _ => Iff.rfl) fun _ => rfl
  have store : Blind fun s => recentCapture b (appendBuf b s) := fun _ => rfl
  exact (take.seq room).seq store

theorem blindOp_pull : BlindOp (exec .pull) := by
  intro s
  cases h : s.usb.rx with
  | nil =>
    rw [exec_pull_of_waiting (.inl h), exec_pull_of_waiting (s := maskTelemetry s) (.inl h)]
    rfl
  | cons b rest =>
    have pull : Blind fun u => if pullAllowed u then pullByte b rest u else u :=
      .guarded (fun _ => Iff.rfl) (blind_pullByte b rest)
    simpa only [exec, execPull, maskTelemetry_frame, h] using pull.next s

theorem blind_txReadyByte : Blind txReadyByte := by
  have send : Blind fun s => { s with usb.tx := s.usb.tx ++ [byteAt readyBytes s.txIdx], txIdx := s.txIdx + 1 } := fun _ => rfl
  have stream : Blind fun s => if s.txIdx = 14 then { s with sess := .streaming } else s :=
    .guarded (fun _ => Iff.rfl) fun _ => rfl
  exact .guarded (c := fun s => (s.sess = .awaitingHandshake && s.usb.txReady) = true) (fun _ => Iff.rfl) (send.seq stream)

theorem blind_txReadyBytes (n : Nat) : Blind (txReadyBytes n) := by
  induction n with
  | zero => exact blind_id
  | succ n ih => exact blind_txReadyByte.seq ih

/-- ATTACH clears telemetry whatever it was (R261, R271). -/
theorem blind_attachSession : Blind attachSession := by
  have start : Blind fun s => { parserReset s with tel := {}, txIdx := 0, sess := .awaitingHandshake } := fun _ => rfl
  exact blind_engineReset.seq start

/-! ### The parser -/

/-- `frame_done` latches and counts, and reports the parser's registers only (R256). -/
theorem blind_frameDone : Blind frameDone := fun _ => rfl

theorem blind_loseMagic (b : Byte) : Blind (loseMagic b) := fun _ => rfl

theorem blind_rejectCount (c : Word32) : Blind (rejectCount c) := fun _ => rfl

theorem blind_acceptCommand (f : Word32) : Blind (acceptCommand f) := fun _ => rfl

theorem blind_acceptEvents (c f : Word32) : Blind (acceptEvents c f) :=
  .ite (c := fun _ => c = 0) (fun _ => Iff.rfl) (fun _ => rfl) fun _ => rfl

/-- A frame completed, the parser scans for the next one (R206, R207). -/
theorem blind_finishFrame : Blind fun s => setPstate .scanMagic (frameDone s) := fun _ => rfl

theorem blind_afterRecord (e : Event) : Blind (afterRecord e) := by
  intro s
  have consume : Blind (dropFront s.cfg.rcd.len) := fun _ => rfl
  have count : ∀ p : Parser, Blind fun u => { u with parser := p } := fun _ _ => rfl
  exact ((consume.seq (blind_push e)).seq (count _)) s

theorem blind_acceptRecord (e : Event) : Blind (acceptRecord e) := by
  rw [funext (acceptRecord_eq e)]
  exact .ite (c := fun s => s.parser.evLeft - 1 = 0) (fun _ => Iff.rfl) ((blind_afterRecord e).seq blind_finishFrame)
    (blind_afterRecord e)

theorem blind_acceptCommandRecord (op p0 : Byte) : Blind (acceptCommandRecord op p0) := by
  have consume : Blind (dropFront cmdLen) := fun _ => rfl
  have count : Blind fun s => { s with parser.frameBytes := s.parser.frameBytes + 4 } := fun _ => rfl
  exact ((consume.seq (blind_controlDispatch op p0)).seq count).seq blind_finishFrame

/-- The parser's step in each of its states reads the parser and the straps only (R204 to R207). -/
theorem blind_parserEffect (p : ParserState) : Blind (parserEffect p) := by
  cases p with
  | scanMagic =>
    exact .ite (c := fun s => magicAtFront s = true) (fun _ => Iff.rfl) (fun _ => rfl)
      fun s => blind_loseMagic (byteAt s.parser.buf 0) s
  | readHeader =>
    have accept : ∀ c f, Blind (acceptHeader c f) := fun c f =>
      .ite (c := fun _ => c.toNat = cmdSentinel) (fun _ => Iff.rfl) (blind_acceptCommand f) <|
      .ite (c := fun _ => c.toNat ≤ maxCount) (fun _ => Iff.rfl) (blind_acceptEvents c f) (blind_rejectCount c)
    exact .ite (c := fun s => (!magicAtFront s) = true) (fun _ => Iff.rfl)
      (fun s => blind_loseMagic (byteAt s.parser.buf 0) s)
      fun s => accept (headerCount s.cfg.hdr s.parser.buf) (headerFrame s.cfg.hdr s.parser.buf) s
  | readEvents => exact fun s => blind_acceptRecord (recordEvent s.cfg.rcd s.parser.buf) s
  | readCommand => exact fun s => blind_acceptCommandRecord (byteAt s.parser.buf 0) (byteAt s.parser.buf 1) s

/-- A parser operation, on its port (R200). -/
theorem blindOp_parserOp (p : ParserState) : BlindOp (exec (parserOp p)) := by
  rw [funext (exec_parserOp p)]
  exact Blind.next (.guarded (fun _ => Iff.rfl) (blind_parserEffect p))

/-! ### Every operation -/

/-- An effect under a Boolean guard that the mask leaves, as the units from the host have it (R200). -/
theorem blindOp_guarded {g : State → Bool} {f : State → State} (hg : ∀ s, g (maskTelemetry s) = g s) (hf : Blind f) :
    BlindOp fun s => .next (if g s then f s else s) :=
  Blind.next (.guarded (c := fun s => g s = true) (fun s => by rw [hg s]) hf)

theorem blindOp_exec (i : Instr) : BlindOp (exec i) := by
  cases i with
  | scanMatch => exact blindOp_guarded (g := parserReady .scanMagic) (fun _ => rfl) fun _ => rfl
  | scanMiss b0 =>
    exact blindOp_guarded (g := fun s => parserReady .scanMagic s || parserReady .readHeader s) (fun _ => rfl)
      (blind_loseMagic b0)
  | hdr12Events c f => exact blindOp_guarded (g := headerReady .hdr12) (fun _ => rfl) (blind_acceptEvents (c.setWidth 32) f)
  | hdr12EventsMax f => exact blindOp_guarded (g := headerReady .hdr12) (fun _ => rfl) (blind_acceptEvents 8192 f)
  | hdr12Command f => exact blindOp_guarded (g := headerReady .hdr12) (fun _ => rfl) (blind_acceptCommand f)
  | hdr12Oversized c => exact blindOp_guarded (g := headerReady .hdr12) (fun _ => rfl) (blind_rejectCount c)
  | hdr10Events c f => exact blindOp_guarded (g := headerReady .hdr10) (fun _ => rfl) (blind_acceptEvents (c.setWidth 32) f)
  | hdr10EventsMax f => exact blindOp_guarded (g := headerReady .hdr10) (fun _ => rfl) (blind_acceptEvents 8192 f)
  | hdr10Command f => exact blindOp_guarded (g := headerReady .hdr10) (fun _ => rfl) (blind_acceptCommand f)
  | hdr10Oversized c => exact blindOp_guarded (g := headerReady .hdr10) (fun _ => rfl) (blind_rejectCount (c.setWidth 32))
  | ev6 => exact blindOp_guarded (g := recordReady .ev6) (fun _ => rfl) (blind_acceptRecord _)
  | ev8 => exact blindOp_guarded (g := recordReady .ev8) (fun _ => rfl) (blind_acceptRecord _)
  | cmdCycleMode p0 => exact blindOp_guarded (g := parserReady .readCommand) (fun _ => rfl) (blind_acceptCommandRecord 0x01 p0)
  | cmdSetVoiceMask p0 =>
    exact blindOp_guarded (g := parserReady .readCommand) (fun _ => rfl) (blind_acceptCommandRecord 0x02 p0)
  | cmdSetFilter p0 => exact blindOp_guarded (g := parserReady .readCommand) (fun _ => rfl) (blind_acceptCommandRecord 0x03 p0)
  | cmdUnknown op p0 => exact blindOp_guarded (g := parserReady .readCommand) (fun _ => rfl) (blind_acceptCommandRecord op p0)
  | readyLine => exact (blind_txReadyBytes 14).next
  | attach =>
    exact Blind.next (.guarded (c := fun s => s.sess = .disconnected) (fun _ => Iff.rfl) blind_attachSession)
  | txReadyByte => exact blind_txReadyByte.next
  | detach => exact Blind.next (.ite (c := fun s => s.sess = .disconnected) (fun _ => Iff.rfl) blind_id fun _ => rfl)
  | pull => exact blindOp_pull
  | scanMagic => exact blindOp_parserOp .scanMagic
  | readHeader => exact blindOp_parserOp .readHeader
  | readEvents => exact blindOp_parserOp .readEvents
  | readCommand => exact blindOp_parserOp .readCommand
  | controlDispatch op p0 => exact (blind_controlDispatch op p0).next
  | frameDone => exact blind_frameDone.next
  | push m a v d | queueEvent m a v d => exact (blind_push (narrowEvent m a v d)).answers _
  | dropOldest =>
    exact .ite (c := fun s => s.queue.count = 0) (fun _ => Iff.rfl) (blindOp_refused .queueEmpty) blind_dropOldest.next
  | pop => exact .ite (c := fun s => s.queue.count = 0) (fun _ => Iff.rfl) (blind_id.answers _) fun _ => rfl
  | peek | depth | gain | getQueueDepth | getDroppedEventCount => exact blind_id.answers _
  | queueReset | resetQueueState => exact blind_queueReset.next
  | consumeCycles run =>
    exact .ite (c := fun s => s.queue.count = 0) (fun _ => Iff.rfl) (blindOp_refused .queueEmpty) <|
      .ite (c := fun s => (run = 0 || headDelta s < run.toNat) = true) (fun _ => Iff.rfl) (blindOp_refused .runOutOfRange)
        fun _ => rfl
  | renderSample => exact blind_renderSample.answers _
  | applyEvent e => exact (blind_applyEvent e).next
  | cellWrite c a v => exact (blind_cellWrite c a v).next
  | drainZero => exact blind_drainZero.next
  | cellInit c => exact (blind_cellInit c).next
  | cellConstruct c => exact (blind_cellConstruct c).next
  | engineReset => exact blind_engineReset.next
  | getMonitor => exact ((blind_callCell .a .readState).seq (blind_callCell .b .readState)).answers _
  | pumpAcquire => exact blind_pumpAcquire.next
  | pumpRender => exact blind_pumpRender.next
  | pumpCommit => exact blind_pumpCommit.next
  | takeFree => exact blindOp_takeFree
  | giveFull b => exact blindOp_giveFull b
  | sinkFree => exact blind_sinkFree.next
  | sidClock c n =>
    exact .ite (c := fun _ => n = 0) (fun _ => Iff.rfl) (blindOp_refused .clockZero) (blind_callCell c (.clock n.toNat)).next
  | sidOutput c => exact (blind_callCell c .output).answers _
  | sidReadState c => exact (blind_callCell c .readState).answers _
  | sidWrite c | sidSetChipModel c | sidReset c | sidEnableFilter c | sidEnableExternalFilter c
  | sidSetSamplingParameters c => exact (blind_callCell c _).next
  | bufferFull | recentCapture | frameStart | parserReset | driftUpdate | flowUpdate => exact fun _ => rfl

/-! ### Every step -/

/-- The next turn is taken from what the mask leaves (R360). -/
theorem nextTurn_maskTelemetry (s : State) : nextTurn (maskTelemetry s) = ((nextTurn s).1, maskTelemetry (nextTurn s).2) := by
  cases h : s.sched with
  | nil => rw [nextTurn_of_sched_nil h, nextTurn_of_sched_nil (s := maskTelemetry s) h]; rfl
  | cons c cs => rw [nextTurn_of_sched_cons h, nextTurn_of_sched_cons (s := maskTelemetry s) h]; rfl

/-- So is the operation of the turn, the parser's unit included (R104). -/
theorem turnInstr_maskTelemetry (c : Choice) (s : State) : turnInstr c (maskTelemetry s) = turnInstr c s := by
  cases c <;> rfl

theorem blind_environment (c : Choice) : Blind (environment c) := by
  cases c with
  | hostFlushRx => exact .ite (c := fun s => s.sess = .streaming) (fun _ => Iff.rfl) blind_id fun _ => rfl
  | setMockOut k out => cases k <;> exact fun _ => rfl
  | _ => exact fun _ => rfl

/-- On a turn without an operation, a step of an admissible configuration is the environment's (R106). -/
theorem step_of_turnInstr_none {s : State} (hv : s.cfg.valid = true)
    (ht : turnInstr (nextTurn s).1 (nextTurn s).2 = none) :
    step s = .next (environment (nextTurn s).1 (nextTurn s).2) := by
  rw [step, if_pos hv, ht]

/-- A step is refused by the straps, and otherwise is its turn, taken with telemetry masked or not (R302, R336). -/
theorem blindOp_step : BlindOp step := by
  intro s
  by_cases hv : s.cfg.valid = true
  case neg =>
    rw [step_of_not_valid hv, step_of_not_valid (s := maskTelemetry s) hv]
  case pos =>
    have turn := nextTurn_maskTelemetry s
    have same : turnInstr (nextTurn (maskTelemetry s)).1 (nextTurn (maskTelemetry s)).2 =
        turnInstr (nextTurn s).1 (nextTurn s).2 := by
      rw [turn]
      exact turnInstr_maskTelemetry _ _
    cases hi : turnInstr (nextTurn s).1 (nextTurn s).2 with
    | some i =>
      rw [step_of_turnInstr_some hv hi, step_of_turnInstr_some (s := maskTelemetry s) hv (same.trans hi), turn]
      exact blindOp_exec i (nextTurn s).2
    | none =>
      rw [step_of_turnInstr_none hv hi, step_of_turnInstr_none (s := maskTelemetry s) hv (same.trans hi), turn]
      exact (blind_environment (nextTurn s).1).next (nextTurn s).2

/-- Settles O56: every operation is blind to telemetry, and so is every step. -/
theorem telemetryNeverFeedsBack : Obligations.TelemetryNeverFeedsBack := ⟨blindOp_exec, blindOp_step⟩

end Sys2Proof.Proofs
end

section
/-!
PROOFS. The detachment of a session (spec/48_session.md R273, R275).
-/

namespace Sys2Proof.Proofs

open Sys2Proof.Machine Sys2Proof.Laws

/-- A detach while disconnected is ignored, and elsewhere ends the session (R273, R275). -/
theorem exec_detach (s : State) :
    exec .detach s = .next (if s.sess = .disconnected then s else detachSession s) := rfl

/-- Detaching, written out: nothing parsed or queued, the flow flag clear, the reset reported, and nothing else written (R273). -/
theorem detachSession_eq {s : State} (h : 0 < s.cfg.highWm) :
    detachSession s = { s with
      sess := .disconnected, parser := {}, queue := { s.queue with head := 0, tail := 0, count := 0 }, paused := false,
      status := s.status ++ [.error .sessionReset] } := by
  have hcfg : 0 < (parserReset (raise .sessionReset s)).cfg.highWm := by simpa using h
  rw [detachSession, queueReset_eq hcfg]
  apply State.ext <;> simp

/-- Settles O25: a detach while disconnected is ignored, and one that is not leaves the state written out. -/
theorem detachKeepsTheCells : Obligations.DetachKeepsTheCells := by
  intro s
  refine ⟨fun hsess => ?ignored, fun hsess hwm => ?detached⟩
  case ignored => rw [exec_detach, if_pos hsess]
  case detached =>
    rw [exec_detach, if_neg hsess, detachSession_eq hwm]
    exact ⟨_, rfl, rfl, rfl, rfl, rfl, rfl, rfl⟩

end Sys2Proof.Proofs
end
